-- ==== Sys2Proof/Word.lean ====
section
/-! DEFINITION. The word types of the block (00_scope R10) and the names of the two encoder axes. -/

namespace Sys2Proof

/-- `u8` of 00_scope R10. An `i8` is held as the same eight bits, read signed with `toInt`. -/
abbrev Byte := BitVec 8

/-- `u16` of 00_scope R10. -/
abbrev Half := BitVec 16

/-- The two encoder axes (42_quadrature R200). -/
inductive AxisId where
  | x
  | y
  deriving DecidableEq, Repr

end Sys2Proof
end

