-- ==== Sys2Proof/Config.lean ====
section
/-! DEFINITION. The parameters of 00_scope R9: the constants the spec fixes, the OPEN ones as a record that
State carries (log 4), and the one free value, the duration of a flush (log 5). Times are in microseconds. -/

namespace Sys2Proof
namespace Config

/-- `T_BIT`, the bit period. -/
def tBit : Nat := 4
/-- `T0_LOW`: a 0 bit is low 3, high 1 (30_encoding R91). -/
def t0Low : Nat := 3
/-- `T1_LOW`: a 1 bit is low 1, high 3 (30_encoding R92). -/
def t1Low : Nat := 1
/-- `TCS_LOW`, the low part of the controller stop (30_encoding R94). -/
def tcsLow : Nat := 2
/-- `TCS_HIGH`, the high part of the controller stop. -/
def tcsHigh : Nat := 1
/-- `THS_LOW`, the low part of the console stop (30_encoding R93). -/
def thsLow : Nat := 1
/-- `THS_HIGH`, the high part of the console stop. -/
def thsHigh : Nat := 2
/-- `T_SAMPLE`, the sample point inside a bit period. -/
def tSample : Nat := 2
/-- `T_DEAD`, the dead time before the first transmitted bit. -/
def tDead : Nat := 1
/-- Duration of one byte on the wire (30_encoding R96). -/
def tByte : Nat := 8 * tBit

/-- `CMD_INFO` (30_encoding R102). -/
def cmdInfo : Byte := 0x00
/-- `CMD_POLL`. -/
def cmdPoll : Byte := 0x01
/-- `CMD_READ`. -/
def cmdRead : Byte := 0x02
/-- `CMD_WRITE`. -/
def cmdWrite : Byte := 0x03
/-- `CMD_RESET`. -/
def cmdReset : Byte := 0xFF

/-- `ID_HIGH`. -/
def idHigh : Byte := 0x05
/-- `ID_LOW`. -/
def idLow : Byte := 0x00
/-- `ST_PAK_INSERTED`, bit 0 of INFO.status (10_state R30). -/
def stPakInserted : Byte := 0x01
/-- `ST_PAK_REMOVED`, bit 1. -/
def stPakRemoved : Byte := 0x02
/-- `ST_CRC_ERROR`, bit 2. -/
def stCrcError : Byte := 0x04

/-- `N_BUTTONS`. -/
def nButtons : Nat := 14
/-- `MASK_SYNTH_RESET`, bit 15. -/
def maskSynthReset : Half := 0x8000

/-- `PAK_SIZE`. -/
def pakSize : Nat := 32768
/-- `BLOCK`, the bytes one READ or WRITE moves. -/
def block : Nat := 32
/-- `PAK_SIGNATURE` (44_pak_store R245). -/
def pakSignature : List Byte := [0x81, 0x80, 0x80, 0x80]
/-- `HYDRATE_SAMPLE`. -/
def hydrateSample : Nat := 16
/-- `COALESCE_US`. -/
def coalesceUs : Nat := 1000000
/-- `DEBOUNCE_US`. -/
def debounceUs : Nat := 5000
/-- `SAMPLE_PERIOD_US`. -/
def samplePeriodUs : Nat := 1000
/-- `CRC8_POLY`. -/
def crc8Poly : Byte := 0x85
/-- `CRC8_SEED`. -/
def crc8Seed : Byte := 0x00
/-- `FLASH_SECTOR_SIZE`. -/
def flashSectorSize : Nat := 4096
/-- `FLASH_PAGE_SIZE`. -/
def flashPageSize : Nat := 256
/-- Pages in the flash region (20_memory R72). -/
def flashPages : Nat := pakSize / flashPageSize

/-- `ENG.req` holds 35 bytes (10_state R24). -/
def reqSize : Nat := 35
/-- `ENG.reply` holds 33 bytes (10_state R25). -/
def replySize : Nat := 33

/-- What an unlisted byte of `PAK.buf` reads as: InitPak zero-fills it (44_pak_store R241). Log 8. -/
def pakFill : Byte := 0x00
/-- What an unlisted byte of `FLASH` reads as: a region never programmed reads 0xFF (10_state R42). Log 9. -/
def flashFill : Byte := 0xFF

/-- `TIME` is a u64 that never wraps in any run a model considers (00_scope R8): its values are below this. Log 1. -/
def timeLimit : Nat := 2 ^ 64

/-- FREE VALUE: `T_FLUSH` of the `k`-th flush whose duration the environment did not give (41_bit_transceiver R184,
93 U1): any natural number. Log 5. -/
opaque flushTime : Nat → Nat

end Config

/-- The OPEN parameters of 00_scope R9. No step changes them. -/
structure Params where
  /-- `T_STOP_WAIT`. -/
  stopWait : Nat
  /-- `STATUS_RESET`. -/
  statusReset : Byte
  /-- `BTN_MASK[0..13]` (10_state R23). -/
  btnMask : List Half
  /-- `IDX_L`. -/
  idxL : Nat
  /-- `IDX_R`. -/
  idxR : Nat
  /-- `IDX_START`. -/
  idxStart : Nat
  /-- `SCALE_FACTOR`. -/
  scale : Int
  /-- `DEADZONE`. -/
  deadzone : Nat
  /-- `FLASH_PAK_OFFSET`. -/
  flashOffset : Nat
  deriving DecidableEq, Repr

/-- The parameters of the reset state: R9's defaults for `T_STOP_WAIT` and `STATUS_RESET`, and for the others the
reference instantiation of 95_test_vectors section 0. DESIGN CHOICE, log 4. -/
def Params.reference : Params where
  stopWait := 3
  statusReset := 0x01
  btnMask := [0x0001, 0x0002, 0x0004, 0x0008, 0x0010, 0x0020, 0x0040,
              0x0080, 0x0100, 0x0200, 0x0400, 0x0800, 0x1000, 0x2000]
  idxL := 8
  idxR := 9
  idxStart := 3
  scale := 4
  deadzone := 2
  flashOffset := 0

end Sys2Proof
end

