-- ==== Sys2Proof/Syntax.lean ====
section
/-! DEFINITION. The instructions of the block: the six Joybus command classes of 30_encoding R102. -/

namespace Sys2Proof

/-- A command with its request operands. READ and WRITE keep the whole address word, checksum bits included, since a
request with a wrong checksum is also executed (40_joybus_commands R138, R139). -/
inductive Instr where
  /-- INFO, 0x00 (R136). -/
  | info
  /-- POLL, 0x01 (R137). -/
  | poll
  /-- READ, 0x02, with the address word (R138). -/
  | read (aw : Half)
  /-- WRITE, 0x03, with the address word and the 32 data bytes (R139). -/
  | write (aw : Half) (data : List Byte)
  /-- RESET, 0xFF (R140). -/
  | reset
  /-- UNKNOWN, any of 0x04..0xFE (R141). -/
  | unknown (cmd : Byte)
  deriving DecidableEq, Repr

end Sys2Proof
end

