-- ==== Sys2Proof/Decode.lean ====
section
/-! DEFINITION. Decoding a request from its bytes, and encoding one (30_encoding R96 to R111); the byte helpers of
00_scope R10. -/

namespace Sys2Proof

/-- `concat(a, b)` of 00_scope R10: `a` in bits 15:8. -/
def concat (a b : Byte) : Half := a ++ b

/-- `hi(w)`, bits 15:8. -/
def hi (w : Half) : Byte := w.extractLsb' 8 8

/-- `lo(w)`, bits 7:0. -/
def lo (w : Half) : Byte := w.extractLsb' 0 8

/-- `nreq(cmd)` of 30_encoding R100: the length of a request, by its first byte alone. -/
def requestLength (cmd : Byte) : Nat :=
  if cmd = Config.cmdRead then 3 else if cmd = Config.cmdWrite then Config.reqSize else 1

/-- Why bytes are not a request. Raised by `decode` only. -/
inductive DecodeError where
  /-- No bytes at all. -/
  | noCommandByte
  /-- READ or WRITE without its two address bytes. -/
  | noAddressWord
  /-- WRITE with fewer than 32 data bytes. -/
  | noData
  deriving DecidableEq, Repr

/-- An instruction with the bytes after it, or the reason there is none. -/
inductive Decoded where
  | ok (i : Instr) (rest : List Byte)
  | error (e : DecodeError)
  deriving DecidableEq, Repr

/-- RQ3 after the command byte: the address word, high byte first (30_encoding R99, 20_memory R64). -/
def decodeRead : List Byte → Decoded
  | a :: b :: rest => .ok (.read (concat a b)) rest
  | _ => .error .noAddressWord

/-- RQ35 after the command byte: the address word, then 32 data bytes (30_encoding R99). -/
def decodeWrite : List Byte → Decoded
  | a :: b :: rest =>
      if rest.length < Config.block then .error .noData
      else .ok (.write (concat a b) (rest.take Config.block)) (rest.drop Config.block)
  | _ => .error .noAddressWord

/-- The command map of 30_encoding R102 and R109: five exact values, everything else is UNKNOWN. -/
def decode : List Byte → Decoded
  | [] => .error .noCommandByte
  | c :: rest =>
      if c = Config.cmdInfo then .ok .info rest
      else if c = Config.cmdPoll then .ok .poll rest
      else if c = Config.cmdRead then decodeRead rest
      else if c = Config.cmdWrite then decodeWrite rest
      else if c = Config.cmdReset then .ok .reset rest
      else .ok (.unknown c) rest

/-- The request bytes of an instruction (30_encoding R111). -/
def encode : Instr → List Byte
  | .info => [Config.cmdInfo]
  | .poll => [Config.cmdPoll]
  | .read aw => [Config.cmdRead, hi aw, lo aw]
  | .write aw data => Config.cmdWrite :: hi aw :: lo aw :: data
  | .reset => [Config.cmdReset]
  | .unknown cmd => [cmd]

/-- The `n` bytes of a number, bits 7:0 first. -/
def bytesOfNat : Nat → Nat → List Byte
  | 0, _ => []
  | n + 1, w => BitVec.ofNat 8 w :: bytesOfNat n (w / 256)

/-- The 35 bytes of a request buffer whose first `nbits` bits are those of `w`, byte 0 in bits 7:0, and whose other
bits are 0. -/
def tableBytes (nbits w : Nat) : List Byte := bytesOfNat Config.reqSize (w % 2 ^ nbits)

/-- The instruction the decoder reads from a word numbered as spec/opcode_table.json numbers it. -/
def decodeTableWord (nbits w : Nat) : Option Instr :=
  match decode (tableBytes nbits w) with
  | .ok i _ => some i
  | .error _ => none

end Sys2Proof
end

