-- ==== Sys2Proof/Machine/State.lean ====
section
/-! DEFINITION. The state of the block (10_state R20 to R43), group by group under the spec's own names, the model's
own fields after them, the reasons a step can stop, the field updates every operation is built from, and the reset state.
-/

namespace Sys2Proof.Machine

/-- Bytes by index, in one canonical form: indices strictly rising, no entry equal to what an unlisted index reads as
(`Config.pakFill` for `PAK.buf`, `Config.flashFill` for `FLASH`). -/
abbrev Memory := List Host.Cell

/-- The values of `ENG.fsm` (10_state R26). -/
inductive Fsm where
  | uninit
  | fatal
  | idle
  | rxReq
  | stopWait
  | dead
  | exec
  | flushing
  | txReply
  | txStop
  deriving DecidableEq, Repr

/-- The values of `ENG.dir` (10_state R28). -/
inductive Dir where
  | input
  | output
  deriving DecidableEq, Repr

/-- `ENG.*` (10_state R24 to R28). -/
structure Eng where
  fsm : Fsm
  t0 : Nat
  /-- Set when the reply starts, after a flush when the flush ends (R27). -/
  txStart : Nat
  /-- 35 bytes. -/
  req : List Byte
  nreq : Nat
  rxcount : Nat
  /-- The local `b` of `RxByte()` (41_bit_transceiver R174), the model's own field. Log 11. -/
  rxByte : Byte
  /-- 33 bytes. -/
  reply : List Byte
  nreply : Nat
  txcount : Nat
  lineQ : Bool
  dir : Dir
  deriving DecidableEq, Repr

/-- A ControllerState: `SNAP` (10_state R22). The stick fields are `i8`. -/
structure Snapshot where
  buttons : Half
  stickX : Byte
  stickY : Byte
  deriving DecidableEq, Repr

/-- `INFO` (10_state R29, R30). The two identity bytes are hardwired and have no storage. -/
structure Info where
  status : Byte
  deriving DecidableEq, Repr

/-- `INFO.id_high`, hardwired (10_state R29). -/
def Info.idHigh (_ : Info) : Byte := Config.idHigh

/-- `INFO.id_low`, hardwired (10_state R29). -/
def Info.idLow (_ : Info) : Byte := Config.idLow

/-- `AX[a]` (10_state R31). -/
structure Axis where
  position : Int
  lastPhase : BitVec 2
  deriving DecidableEq, Repr

/-- `BTN` (10_state R33). -/
structure Btn where
  lastRaw : Half
  committed : Half
  lastChange : Nat
  deriving DecidableEq, Repr

/-- `PAK` (10_state R35, R36). -/
structure Pak where
  buf : Memory
  dirty : Bool
  lastFlush : Nat
  ready : Bool
  deriving DecidableEq, Repr

/-- The flush in progress and the draws of `T_FLUSH` (41_bit_transceiver R184, 60_exceptions R300), the model's own
fields. Logs 5 and 7. -/
structure Hold where
  /-- The first microsecond after the last flush begun: a flush is in progress while `TIME` is below it. It has no 64-bit
  bound: DESIGN CHOICE, log 25. -/
  flushEnd : Nat
  /-- How many flushes have been begun. -/
  draws : Nat
  /-- The durations the environment gives the next flushes; past its end they are the free value `Config.flushTime`. -/
  times : List Nat
  deriving DecidableEq, Repr

/-- The input ports of 00_scope R7 other than `rst`: their levels in one microsecond. -/
structure Pins where
  /-- The console pulls the line low (41_bit_transceiver R170). -/
  consoleLow : Bool
  encXA : Bool
  encXB : Bool
  encYA : Bool
  encYB : Bool
  /-- `btn_n[13:0]`, active low. -/
  btnN : BitVec 14
  lineClaimOk : Bool
  deriving DecidableEq, Repr

/-- The Joybus line in the microsecond last executed: `joy_drive_low` and `joy_in`. The model's own record. Log 14. -/
structure Wire where
  driveLow : Bool
  level : Bool
  deriving DecidableEq, Repr

/-- The host operations of 45_sampler R278 other than `rst`. -/
inductive HostOp where
  | initPak
  | initDecoder
  | initButtons
  | initEngine
  | engineReset
  | setCenter
  deriving DecidableEq, Repr

/-- The agents whose atomic actions the environment orders around the engine's (00_scope R12). `host` is one waiting
call of the orchestrator. -/
inductive Actor where
  | host
  | axis (a : AxisId)
  | sampler
  deriving DecidableEq, Repr

/-- What the environment does in one microsecond. Logs 2 and 3. -/
structure Inputs where
  pins : Pins
  rst : Bool
  /-- Host operations the orchestrator calls in this microsecond, in order. -/
  calls : List HostOp
  /-- The agents that act before the engine, in order. -/
  before : List Actor
  /-- The agents that act after the engine, in order; whoever is due and not listed acts after them. -/
  after : List Actor
  deriving DecidableEq, Repr

/-- The environment's script, the model's own field. -/
structure Env where
  /-- The coming microseconds, one entry each; past its end the levels hold and nothing is called. -/
  inputs : List Inputs
  /-- Host operations called and not yet performed (70_reset R334). -/
  calls : List HostOp
  /-- Host operations the orchestrator calls at `TIME` 0 after a reset by `rst`, in order (70_reset R334). Log 16. -/
  boot : List HostOp
  deriving DecidableEq, Repr

/-- Why a step stops. -/
inductive Fault where
  /-- Raised by `step` when `TIME` would leave 64 bits; 00_scope R8 says no run a model considers gets there. Safe. -/
  | timeExhausted
  deriving DecidableEq, Repr

/-- Why something has no meaning. -/
inductive Refusal where
  /-- Raised by `exec` for an instruction that has no meaning yet; no arm raises it. Safe. -/
  | notModelled (mnemonic : String)
  /-- Raised by `flashProgramPage` for a page not erased since it was last programmed, or a list that is not one page
  long (20_memory R72, 93 U10); no step raises it. Safe. -/
  | flashPageNotErased
  /-- Raised by the engine when `ENG.req` holds too few bytes to decode; no state whose buffer has its 35 bytes raises
  it. Log 21. Safe. -/
  | requestTooShort
  deriving DecidableEq, Repr

/-- The state of the block, of its inputs, and of the model's own records. -/
structure State where
  time : Nat
  eng : Eng
  snap : Snapshot
  info : Info
  axX : Axis
  axY : Axis
  qdInit : Bool
  btn : Btn
  smpNext : Nat
  pak : Pak
  flash : Memory
  hold : Hold
  par : Params
  pins : Pins
  wire : Wire
  env : Env
  deriving DecidableEq, Repr

/-- The result of a meaning or a step. -/
abbrev Result := Host.Outcome State Fault Refusal

/-- `TIME <- v`. -/
def State.withTime (s : State) (v : Nat) : State := { s with time := v }
/-- `ENG <- v`. -/
def State.withEng (s : State) (v : Eng) : State := { s with eng := v }
/-- `SNAP <- v`. -/
def State.withSnap (s : State) (v : Snapshot) : State := { s with snap := v }
/-- `INFO <- v`. -/
def State.withInfo (s : State) (v : Info) : State := { s with info := v }
/-- `AX[a]`. -/
def State.ax (s : State) : AxisId → Axis
  | .x => s.axX
  | .y => s.axY
/-- `AX[a] <- v`. -/
def State.withAx (s : State) (a : AxisId) (v : Axis) : State :=
  match a with
  | .x => { s with axX := v }
  | .y => { s with axY := v }
/-- `QD.initialized <- v`. -/
def State.withQd (s : State) (v : Bool) : State := { s with qdInit := v }
/-- `BTN <- v`. -/
def State.withBtn (s : State) (v : Btn) : State := { s with btn := v }
/-- `SMP.next <- v`. -/
def State.withSmp (s : State) (v : Nat) : State := { s with smpNext := v }
/-- `PAK <- v`. -/
def State.withPak (s : State) (v : Pak) : State := { s with pak := v }
/-- `FLASH <- v`. -/
def State.withFlash (s : State) (v : Memory) : State := { s with flash := v }
/-- The flush record. -/
def State.withHold (s : State) (v : Hold) : State := { s with hold := v }
/-- The input levels. -/
def State.withPins (s : State) (v : Pins) : State := { s with pins := v }
/-- The line record. -/
def State.withWire (s : State) (v : Wire) : State := { s with wire := v }
/-- The script. -/
def State.withEnv (s : State) (v : Env) : State := { s with env := v }

/-- `ENG` after reset (10_state R43). The two buffers are unspecified there: all 0x00, DESIGN CHOICE, log 10. -/
def Eng.reset : Eng where
  fsm := .uninit
  t0 := 0
  txStart := 0
  req := List.replicate Config.reqSize 0
  nreq := 0
  rxcount := 0
  rxByte := 0
  reply := List.replicate Config.replySize 0
  nreply := 0
  txcount := 0
  lineQ := false
  dir := .input

/-- The line not pulled, the encoder lines low, every button released, the claim granted. DESIGN CHOICE, log 13. -/
def Pins.quiet : Pins where
  consoleLow := false
  encXA := false
  encXB := false
  encYA := false
  encYB := false
  btnN := 0x3FFF
  lineClaimOk := true

/-- The reference start-up order, called at `TIME` 0 (70_reset R334). -/
def referenceBoot : List HostOp := [.initPak, .initDecoder, .initButtons, .initEngine]

/-- The line record of a microsecond in which nobody pulls. -/
def Wire.released : Wire where
  driveLow := false
  level := true

/-- The machine right after reset (10_state R43), of a device whose flash region was never programmed (R42; log 9), with
the reference parameters (log 4), the calls of the reference start-up waiting (70_reset R334) and an empty script (log 2).
-/
def State.reset : State where
  time := 0
  eng := Eng.reset
  snap := { buttons := 0, stickX := 0, stickY := 0 }
  info := { status := Params.reference.statusReset }
  axX := { position := 0, lastPhase := 0 }
  axY := { position := 0, lastPhase := 0 }
  qdInit := false
  btn := { lastRaw := 0, committed := 0, lastChange := 0 }
  smpNext := Config.samplePeriodUs
  pak := { buf := [], dirty := false, lastFlush := 0, ready := false }
  flash := []
  hold := { flushEnd := 0, draws := 0, times := [] }
  par := Params.reference
  pins := Pins.quiet
  wire := Wire.released
  env := { inputs := [], calls := referenceBoot, boot := referenceBoot }

end Sys2Proof.Machine
end

