-- ==== Sys2Proof/Machine/Flags.lean ====
section
/-! DEFINITION. The flags of `INFO.status` (10_state R30): how each is read, set and cleared. -/

namespace Sys2Proof.Machine

/-- `CRC_ERROR`. -/
def crcError (s : State) : Bool := s.info.status.getLsbD 2

/-- `PAK_REMOVED`. -/
def pakRemoved (s : State) : Bool := (s.info.status &&& Config.stPakRemoved) != 0

/-- `PAK_INSERTED`. -/
def pakInserted (s : State) : Bool := s.info.status.getLsbD 0

/-- `status | ST_CRC_ERROR`. -/
def setCrcError (status : Byte) : Byte := status ||| Config.stCrcError

/-- `status & ~ST_CRC_ERROR`. -/
def clearCrcError (status : Byte) : Byte := status &&& ~~~ Config.stCrcError

end Sys2Proof.Machine
end

