-- ==== Sys2Proof/Machine/Ops.lean ====
section
/-! DEFINITION. The named operations every meaning is built from: the sequencing of results, memory in its canonical form,
the reply buffer, the free duration of a flush, raising and clearing `ChecksumError` (60_exceptions R291, R305), and the
output functions. -/

namespace Sys2Proof.Machine

/-- `f` on the next state of `r`, or the stop of `r`. -/
def andThen (r : Result) (f : State → Result) : Result :=
  match r with
  | .next s => f s
  | .fault e => .fault e
  | .refused e => .refused e

/-- The byte at index `a`; an unlisted index reads as `fill`. -/
def memRead (fill : Byte) : Memory → Nat → Byte
  | [], _ => fill
  | (b, v) :: m, a => if b = a then v else memRead fill m a

/-- The cells of the bytes `vs` laid from index `a` on, less those equal to `fill`. -/
def memCells (fill : Byte) (a : Nat) : List Byte → Memory
  | [] => []
  | v :: vs => if v = fill then memCells fill (a + 1) vs else (a, v) :: memCells fill (a + 1) vs

/-- `vs` written to the indices from `a` on. -/
def memWrite (fill : Byte) (m : Memory) (a : Nat) (vs : List Byte) : Memory :=
  m.filter (fun c => decide (c.1 < a)) ++ memCells fill a vs ++ m.filter (fun c => decide (a + vs.length ≤ c.1))

/-- The `n` bytes from index `a` on, in ascending order (20_memory R65). -/
def memBytes (fill : Byte) (m : Memory) (a n : Nat) : List Byte :=
  (List.range n).map fun j => memRead fill m (a + j)

/-- The bytes of `m` at the `n` indices from `i` on, listed anew for an unlisted byte that reads `dst` instead of `fill`.
`m` is canonical and lists nothing below `i`. -/
def memRecast (fill dst : Byte) : Nat → Nat → Memory → Memory
  | 0, _, _ => []
  | n + 1, i, [] => if fill = dst then memRecast fill dst n (i + 1) [] else (i, fill) :: memRecast fill dst n (i + 1) []
  | n + 1, i, (a, v) :: m =>
      if a = i then
        if v = dst then memRecast fill dst n (i + 1) m else (i, v) :: memRecast fill dst n (i + 1) m
      else if fill = dst then memRecast fill dst n (i + 1) ((a, v) :: m)
      else (i, fill) :: memRecast fill dst n (i + 1) ((a, v) :: m)

/-- The canonical form between two indices: strictly rising from `lo` on, below `top`, no entry equal to `fill`. -/
def memWfFrom (fill : Byte) (top : Nat) : Nat → Memory → Bool
  | _, [] => true
  | lo, (a, v) :: m => decide (lo ≤ a) && decide (a < top) && v != fill && memWfFrom fill top (a + 1) m

/-- The canonical form of a memory of `PAK_SIZE` bytes whose unlisted bytes read as `fill`. -/
def Memory.wf (fill : Byte) (m : Memory) : Bool := memWfFrom fill Config.pakSize 0 m

/-- One byte of `PAK.buf` (10_state R35). -/
def State.pakByte (s : State) (a : Nat) : Byte := memRead Config.pakFill s.pak.buf a

/-- One byte of `FLASH` (10_state R37). -/
def State.flashByte (s : State) (a : Nat) : Byte := memRead Config.flashFill s.flash a

/-- `ENG.reply[0..] <- bytes; ENG.nreply <- their number`; the rest of the buffer keeps its bytes (10_state R25). -/
def setReply (bytes : List Byte) (s : State) : State :=
  s.withEng { s.eng with reply := bytes ++ s.eng.reply.drop bytes.length, nreply := bytes.length }

/-- `raise ChecksumError` (60_exceptions R291), the block's one exception: sets `CRC_ERROR` and nothing else; nothing is
saved and control goes nowhere (R303). -/
def raiseChecksumError (s : State) : State := s.withInfo { status := setCrcError s.info.status }

/-- What ends the effect of a `ChecksumError` (60_exceptions R305): `CRC_ERROR` cleared, by RESET or EngineReset. -/
def clearChecksumError (s : State) : State := s.withInfo { status := clearCrcError s.info.status }

/-- The reply of INFO, RESET and UNKNOWN (40_joybus_commands R136): the identity and the status as it stands. -/
def identify (s : State) : State := setReply [s.info.idHigh, s.info.idLow, s.info.status] s

/-- `T_FLUSH` of the next flush: what the environment gives, past that the free value (41_bit_transceiver R184; log 5). -/
def flushTimeNext (s : State) : Nat := s.hold.times.headD (Config.flushTime s.hold.draws)

/-- A flush is in progress: the sampler and the edge handlers are held (60_exceptions R300). -/
def held (s : State) : Bool := decide (s.time < s.hold.flushEnd)

/-- The output `fatal` (00_scope R7). -/
def fatalOut (s : State) : Bool := decide (s.eng.fsm = .fatal)

end Sys2Proof.Machine
end

