-- ==== Sys2Proof/Machine/Identify.lean ====
section
/-! DEFINITION. The meanings of INFO, RESET and UNKNOWN (40_joybus_commands R136, R140, R141). -/

namespace Sys2Proof.Machine

/-- INFO (R136). -/
def execInfo (s : State) : Result := .next (identify s)

/-- RESET (R140): `CRC_ERROR` cleared first, then the identity with the status just written. -/
def execReset (s : State) : Result := .next (identify (clearChecksumError s))

/-- UNKNOWN (R141): exactly INFO, whatever the command byte. -/
def execUnknown (_cmd : Byte) (s : State) : Result := .next (identify s)

end Sys2Proof.Machine
end

