-- ==== Sys2Proof/Machine/Operands.lean ====
section
/-! DEFINITION. Operand forms: the address word (30_encoding R104), the button word and its masks (10_state R23,
30_encoding R106), the stick bytes (30_encoding R107), the checking functions over them (40_joybus_commands R130 to
R133), and `clamp` (00_scope R10). -/

namespace Sys2Proof.Machine

/-- The bus address of an address word: `aw & 0xFFE0` (30_encoding R104). -/
def busAddr (aw : Half) : Half := aw &&& 0xFFE0

/-- The received checksum of an address word: `aw & 0x001F` (30_encoding R104). -/
def awChecksum (aw : Half) : BitVec 5 := aw.extractLsb' 0 5

/-- The weights `W(b)` of the address bits (40_joybus_commands R131), as pairs `(b, W(b))`. -/
def addrWeights : List (Nat × BitVec 5) :=
  [(15, 0x01), (14, 0x1A), (13, 0x0D), (12, 0x1C), (11, 0x0E), (10, 0x07), (9, 0x19), (8, 0x16), (7, 0x0B), (6, 0x1F),
   (5, 0x15)]

/-- `AddrCk(a)` (40_joybus_commands R131). -/
def addrCk (a : Half) : BitVec 5 :=
  addrWeights.foldl (fun c w => if a.getLsbD w.1 then c ^^^ w.2 else c) 0

/-- `CkOk(aw)` (40_joybus_commands R132). -/
def ckOk (aw : Half) : Bool := addrCk (busAddr aw) == awChecksum aw

/-- One shift of the CRC-8 accumulator (40_joybus_commands R133). -/
def crcShift (acc : Byte) : Byte :=
  if acc.getLsbD 7 then (acc <<< 1) ^^^ Config.crc8Poly else acc <<< 1

/-- One byte of the CRC-8: eight shifts after the byte is folded in (40_joybus_commands R133). -/
def crcByte (acc x : Byte) : Byte :=
  (List.range 8).foldl (fun c _ => crcShift c) (acc ^^^ x)

/-- `Crc8(d)` (40_joybus_commands R133). -/
def crc8 (d : List Byte) : Byte := d.foldl crcByte Config.crc8Seed

/-- `BTN_MASK[i]` (10_state R23). -/
def btnMask (p : Params) (i : Nat) : Half := p.btnMask.getD i 0

/-- `MASK_START` (00_scope R9). -/
def maskStart (p : Params) : Half := btnMask p p.idxStart

/-- `MASK_LRS` (00_scope R9). -/
def maskLRS (p : Params) : Half := btnMask p p.idxL ||| btnMask p p.idxR ||| maskStart p

/-- The union of the fourteen button masks. -/
def maskAll (p : Params) : Half := p.btnMask.foldl (fun m b => m ||| b) 0

/-- The three buttons L, R and Start are all set in `b` (40_joybus_commands R137, 43_button R225). -/
def lrsHeld (p : Params) (b : Half) : Bool := (b &&& maskLRS p) == maskLRS p

/-- The transmitted copy of the buttons in a POLL reply (40_joybus_commands R137): with L, R and Start all set, bit 15 is
set and Start cleared. -/
def pollWord (p : Params) (b : Half) : Half :=
  if lrsHeld p b then (b ||| Config.maskSynthReset) &&& ~~~ maskStart p else b

/-- `clamp(n, a, b)` (00_scope R10). -/
def clamp (n a b : Int) : Int := if n < a then a else if b < n then b else n

/-- What 00_scope R9 and 10_state R23, R30 require of the OPEN parameters: fourteen distinct one-hot masks, none bit 15;
three distinct indices below 14; status bits 7:3 zero; the flash region sector-aligned. -/
def paramsWf (p : Params) : Bool :=
  p.btnMask.length == Config.nButtons && decide p.btnMask.Nodup
  && p.btnMask.all (fun m => (List.range 15).any fun k => m == (1 : Half) <<< k)
  && decide (p.idxL < Config.nButtons) && decide (p.idxR < Config.nButtons) && decide (p.idxStart < Config.nButtons)
  && p.idxL != p.idxR && p.idxL != p.idxStart && p.idxR != p.idxStart
  && p.statusReset >>> 3 == 0
  && p.flashOffset % Config.flashSectorSize == 0

end Sys2Proof.Machine
end

