-- ==== Sys2Proof/Machine/Poll.lean ====
section
/-! DEFINITION. The meaning of POLL (40_joybus_commands R137). -/

namespace Sys2Proof.Machine

/-- The four reply bytes of a snapshot (30_encoding R106, R107). -/
def pollReply (p : Params) (v : Snapshot) : List Byte :=
  [hi (pollWord p v.buttons), lo (pollWord p v.buttons), v.stickX, v.stickY]

/-- POLL (R137): the whole snapshot is read in one atomic action and `SNAP` is not written. -/
def execPoll (s : State) : Result := .next (setReply (pollReply s.par s.snap) s)

end Sys2Proof.Machine
end

