-- ==== Sys2Proof/Machine/Pak.lean ====
section
/-! DEFINITION. The flash port (20_memory R70 to R73) and the pak store (44_pak_store R240 to R249). -/

namespace Sys2Proof.Machine

/-- The flash device inside one flush: its bytes, and the pages erased and not programmed since (20_memory R72). -/
structure FlashPort where
  mem : Memory
  fresh : List Nat
  deriving DecidableEq, Repr

/-- `FlashRead(i, n)` (20_memory R70). -/
def flashRead (m : Memory) (i n : Nat) : List Byte := memBytes Config.flashFill m i n

/-- `FlashEraseRegion()` (20_memory R71): every byte 0xFF, every page fresh. -/
def flashEraseRegion (_ : FlashPort) : FlashPort := { mem := [], fresh := List.range Config.flashPages }

/-- `FlashProgramPage(p, d)` (20_memory R72), defined only for a fresh page and 256 bytes. -/
def flashProgramPage (p : Nat) (d : List Byte) (f : FlashPort) : Except Refusal FlashPort :=
  if p ∈ f.fresh ∧ d.length = Config.flashPageSize then
    .ok { mem := memWrite Config.flashFill f.mem (Config.flashPageSize * p) d, fresh := f.fresh.erase p }
  else .error .flashPageNotErased

/-- The pages `ps` programmed in order from the buffer (20_memory R73). -/
def flashProgramPages (buf : Memory) : List Nat → FlashPort → Except Refusal FlashPort
  | [], f => .ok f
  | p :: ps, f =>
      match flashProgramPage p (memBytes Config.pakFill buf (Config.flashPageSize * p) Config.flashPageSize) f with
      | .ok f' => flashProgramPages buf ps f'
      | .error e => .error e

/-- The erase and the 128 pages of `Flush()` on the flash port, as 44_pak_store R247 writes them. -/
def flashRewrite (buf : Memory) (m : Memory) : Except Refusal FlashPort :=
  flashProgramPages buf (List.range Config.flashPages) (flashEraseRegion { mem := m, fresh := [] })

/-- Device address of flash index `i` (10_state R37). -/
def flashDeviceAddr (p : Params) (i : Nat) : Nat := p.flashOffset + i

/-- `PAK.buf` as flash bytes: what the flash holds after the last page (20_memory R73). -/
def pakToFlash (buf : Memory) : Memory := memRecast Config.pakFill Config.flashFill Config.pakSize 0 buf

/-- The flash bytes as `PAK.buf` (44_pak_store R242). -/
def flashToPak (m : Memory) : Memory := memRecast Config.flashFill Config.pakFill Config.pakSize 0 m

/-- `Flush()` (44_pak_store R247) as one step (20_memory R73): `FLASH <- PAK.buf`, the flag cleared, the time it began
stamped, and the sampler and handlers held for `T_FLUSH` from this microsecond on (60_exceptions R300). -/
def flush (s : State) : State :=
  ((s.withFlash (pakToFlash s.pak.buf)).withPak { s.pak with dirty := false, lastFlush := s.time }).withHold
    { flushEnd := s.time + flushTimeNext s, draws := s.hold.draws + 1, times := s.hold.times.tail }

/-- The store is initialised and `addr` is in bounds: the success indication of `read` and `write`
(44_pak_store R243, R244). -/
def pakAccessible (addr : Nat) (s : State) : Bool := s.pak.ready && decide (addr < Config.pakSize)

/-- At least `COALESCE_US` has passed since the last flush (44_pak_store R244, R249). -/
def coalesceDue (s : State) : Bool := decide (Config.coalesceUs ≤ s.time - s.pak.lastFlush)

/-- `MemRead(address, length)` (44_pak_store R243). -/
def pakRead (addr len : Nat) (s : State) : List Byte :=
  if pakAccessible addr s then
    memBytes Config.pakFill s.pak.buf addr (min len (Config.pakSize - addr))
      ++ List.replicate (len - min len (Config.pakSize - addr)) 0
  else List.replicate len 0

/-- The copy and the dirty mark of `MemWrite` (44_pak_store R244). -/
def pakCommit (addr len : Nat) (data : List Byte) (s : State) : State :=
  s.withPak { s.pak with
    buf := memWrite Config.pakFill s.pak.buf addr (data.take (min len (Config.pakSize - addr))), dirty := true }

/-- `MemWrite(address, length, data)` (44_pak_store R244). -/
def pakWrite (addr len : Nat) (data : List Byte) (s : State) : State :=
  if pakAccessible addr s then
    if coalesceDue s then flush (pakCommit addr len data s) else pakCommit addr len data s
  else s

/-- The buffer of a formatted pak (20_memory R62): zeros, then the signature at 0. -/
def formattedPak : Memory := memWrite Config.pakFill [] 0 Config.pakSignature

/-- `format()` (44_pak_store R245): zeros, the signature, the dirty mark, and an unconditional flush. -/
def format (s : State) : State :=
  flush (s.withPak { s.pak with buf := formattedPak, dirty := true })

/-- The sampled bytes of `hydrate()` are all 0xFF (44_pak_store R242). -/
def flashBlank (m : Memory) : Bool := (flashRead m 0 Config.hydrateSample).all (· == 0xFF)

/-- `hydrate()` (44_pak_store R242). -/
def hydrate (s : State) : State :=
  if flashBlank s.flash then format s else s.withPak { s.pak with buf := flashToPak s.flash }

/-- `InitPak` without its guard (44_pak_store R241). `PAK.ready` becomes 1 in the step in which a formatting flush starts,
not in the one in which it ends: DEDUCED, log 26. -/
def initPakBody (s : State) : State :=
  let t := hydrate (s.withPak { s.pak with buf := [], dirty := false })
  t.withPak { t.pak with ready := true }

/-- `is_present()` (44_pak_store R246). -/
def isPresent (_ : State) : Bool := true

end Sys2Proof.Machine
end

