-- ==== Sys2Proof/Machine/Transfer.lean ====
section
/-! DEFINITION. The meanings of READ and WRITE (40_joybus_commands R138, R139). -/

namespace Sys2Proof.Machine

/-- READ (R138): the block and its CRC, or 32 zeros, 0xFF and a `ChecksumError`. -/
def execRead (aw : Half) (s : State) : Result :=
  if ckOk aw then
    .next (setReply (pakRead (busAddr aw).toNat Config.block s ++ [crc8 (pakRead (busAddr aw).toNat Config.block s)]) s)
  else .next (setReply (List.replicate Config.block 0 ++ [0xFF]) (raiseChecksumError s))

/-- The store side of WRITE (R139): the commit, or a `ChecksumError` and the data discarded. -/
def writeCommit (aw : Half) (data : List Byte) (s : State) : State :=
  if ckOk aw then pakWrite (busAddr aw).toNat Config.block data s else raiseChecksumError s

/-- The CRC byte of WRITE (R139): over the data as received, inverted if `PAK_REMOVED` is set. -/
def writeCrc (data : List Byte) (s : State) : Byte :=
  if pakRemoved s then crc8 data ^^^ 0xFF else crc8 data

/-- WRITE (R139): the commit comes before the reply. -/
def execWrite (aw : Half) (data : List Byte) (s : State) : Result :=
  .next (setReply [writeCrc data (writeCommit aw data s)] (writeCommit aw data s))

end Sys2Proof.Machine
end

