-- ==== Sys2Proof/Machine/Dispatch.lean ====
section
/-! DEFINITION. One arm per command (40_joybus_commands R142: the dispatch is total). -/

namespace Sys2Proof.Machine

def exec (i : Instr) (s : State) : Host.Outcome State Fault Refusal :=
  match i with
  | .info => Sys2Proof.Machine.execInfo s
  | .poll => Sys2Proof.Machine.execPoll s
  | .read aw => Sys2Proof.Machine.execRead aw s
  | .write aw data => Sys2Proof.Machine.execWrite aw data s
  | .reset => Sys2Proof.Machine.execReset s
  | .unknown cmd => Sys2Proof.Machine.execUnknown cmd s

end Sys2Proof.Machine
end

