-- ==== Sys2Proof/Machine/Buttons.lean ====
section
/-! DEFINITION. The debounced button reader (43_button R220 to R227). -/

namespace Sys2Proof.Machine

/-- `Raw()` (R222): the mask of every input that reads low. -/
def rawButtons (s : State) : Half :=
  (List.range Config.nButtons).foldl (fun r i => if s.pins.btnN.getLsbD i then r else r ||| btnMask s.par i) 0

/-- The debouncer after one `read()` (R223). -/
def debounce (now : Nat) (raw : Half) (b : Btn) : Btn :=
  if raw = b.lastRaw then b
  else if Config.debounceUs ≤ now - b.lastChange then { lastRaw := raw, committed := raw, lastChange := now }
  else { b with lastRaw := raw }

/-- `read()` (R223): its effect; its result is `btn.committed` afterwards. -/
def readButtons (s : State) : State := s.withBtn (debounce s.time (rawButtons s) s.btn)

/-- `is_reset_pressed()` (R225): its truth value, and the state `read()` leaves. -/
def isResetPressed (s : State) : Bool × State :=
  (lrsHeld s.par (readButtons s).btn.committed, readButtons s)

/-- `InitButtons` (R221). -/
def initButtons (s : State) : State := s.withBtn { lastRaw := 0, committed := 0, lastChange := 0 }

/-- The output `reset_gesture` (45_sampler R273). -/
def resetGesture (s : State) : Bool := lrsHeld s.par s.btn.committed

end Sys2Proof.Machine
end

