-- ==== Sys2Proof/Machine/Quadrature.lean ====
section
/-! DEFINITION. The quadrature decoder (42_quadrature R200 to R208). -/

namespace Sys2Proof.Machine

/-- `Phase(a)` (R202): line A is bit 1, line B bit 0. -/
def phase (a : AxisId) (s : State) : BitVec 2 :=
  match a with
  | .x => BitVec.ofBool s.pins.encXA ++ BitVec.ofBool s.pins.encXB
  | .y => BitVec.ofBool s.pins.encYA ++ BitVec.ofBool s.pins.encYB

/-- `QTABLE[last][cur]` (R203): +1 along 00, 01, 11, 10, 00; -1 along the reverse; 0 otherwise. -/
def qtable (last cur : BitVec 2) : Int :=
  match last.toNat, cur.toNat with
  | 0, 1 | 1, 3 | 3, 2 | 2, 0 => 1
  | 1, 0 | 3, 1 | 2, 3 | 0, 2 => -1
  | _, _ => 0

/-- One run of the edge handler of axis `a` (R203). -/
def axisHandler (a : AxisId) (s : State) : State :=
  s.withAx a { position := (s.ax a).position + qtable (s.ax a).lastPhase (phase a s), lastPhase := phase a s }

/-- The handler of axis `a` is due (R203, 60_exceptions R297, R300). -/
def axisDue (a : AxisId) (s : State) : Bool :=
  s.qdInit && !held s && phase a s != (s.ax a).lastPhase

/-- `get_axis(a)` as an exact integer (R204). -/
def axisValue (p : Params) (position : Int) : Int :=
  clamp (if (position * p.scale).natAbs < p.deadzone then 0 else position * p.scale) (-128) 127

/-- `get_x()` and `get_y()` (R204): an `i8`. -/
def getAxis (a : AxisId) (s : State) : Byte :=
  if s.qdInit then BitVec.ofInt 8 (axisValue s.par (s.ax a).position) else 0

/-- `InitDecoder` (R201). -/
def initDecoder (s : State) : State :=
  ((s.withAx .x { position := 0, lastPhase := phase .x s }).withAx .y { position := 0, lastPhase := phase .y s }).withQd
    true

/-- `SetCenter` (R206). -/
def setCenter (s : State) : State :=
  (s.withAx .x { s.axX with position := 0 }).withAx .y { s.axY with position := 0 }

end Sys2Proof.Machine
end

