-- ==== Sys2Proof/Machine/Sampler.lean ====
section
/-! DEFINITION. The sampler (45_sampler R270 to R274). -/

namespace Sys2Proof.Machine

/-- `update_state(snapshot)` (R272). -/
def updateState (v : Snapshot) (s : State) : State := s.withSnap v

/-- One sampler tick (R271), and the next due time (R270). An edge handler that ran between `get_x()` and `get_y()` would
leave what running before or after the tick leaves. Log 3. `SMP.next` has no 64-bit bound: DESIGN CHOICE, log 25. -/
def samplerTick (s : State) : State :=
  (updateState { buttons := (readButtons s).btn.committed, stickX := getAxis .x s, stickY := getAxis .y s }
    (readButtons s)).withSmp (s.time + Config.samplePeriodUs)

/-- The sampler is due (R270, 60_exceptions R300). -/
def samplerDue (s : State) : Bool := decide (s.smpNext ≤ s.time) && !held s

end Sys2Proof.Machine
end

