-- ==== Sys2Proof/Machine/HostOps.lean ====
section
/-! DEFINITION. The host operations (45_sampler R275 to R278), the orchestrator that performs them, external reset
(10_state R41, R42), and the agents other than the engine. -/

namespace Sys2Proof.Machine

/-- `InitPak` (44_pak_store R241), refused without any change once the engine has left `Uninit` (45_sampler R278). -/
def initPak (s : State) : State := if s.eng.fsm = .uninit then initPakBody s else s

/-- `InitEngine` (45_sampler R275): `Idle`, or `Fatal` if the line cannot be claimed (60_exceptions R293, R296); nothing
outside `Uninit`. -/
def initEngine (s : State) : State :=
  if s.eng.fsm = .uninit then
    if s.pins.lineClaimOk then s.withEng { s.eng with fsm := .idle, dir := .input }
    else s.withEng { s.eng with fsm := .fatal }
  else s

/-- `EngineReset` (45_sampler R276). -/
def engineReset (s : State) : State := clearChecksumError s

/-- One host operation (45_sampler R278). -/
def hostOp : HostOp → State → State
  | .initPak, s => initPak s
  | .initDecoder, s => initDecoder s
  | .initButtons, s => initButtons s
  | .initEngine, s => initEngine s
  | .engineReset, s => engineReset s
  | .setCenter, s => setCenter s

/-- The orchestrator is inside `InitPak`, whose flush has not ended (44_pak_store R247, 70_reset R334). -/
def orchestratorBusy (s : State) : Bool := decide (s.eng.fsm = .uninit) && held s

/-- The orchestrator's next waiting call, if it is free to make it. -/
def hostAct (s : State) : State :=
  match s.env.calls with
  | [] => s
  | op :: rest => if orchestratorBusy s then s else hostOp op (s.withEnv { s.env with calls := rest })

/-- One atomic action of an agent other than the engine, if it is due (00_scope R12). -/
def actorAct : Actor → State → State
  | .host, s => hostAct s
  | .axis a, s => if axisDue a s then axisHandler a s else s
  | .sampler, s => if samplerDue s then samplerTick s else s

/-- The actions of a list of agents, in order. -/
def actorsAct : List Actor → State → State
  | [], s => s
  | a :: as, s => actorsAct as (actorAct a s)

/-- Everyone who may still be due: the waiting calls, both handlers, the sampler. -/
def actorsAll (s : State) : List Actor :=
  List.replicate s.env.calls.length .host ++ [.axis .x, .axis .y, .sampler]

/-- Reset by `rst` (10_state R41, R42, R43): every element but `FLASH` takes its reset value; the parameters, the levels,
the flush durations and the script are the environment's and stay; of the calls, those of the start-up wait (70_reset
R334; log 16). -/
def resetBlock (s : State) : State :=
  { State.reset with
    info := { status := s.par.statusReset }
    flash := s.flash
    hold := { flushEnd := 0, draws := s.hold.draws, times := s.hold.times }
    par := s.par
    pins := s.pins
    wire := { driveLow := false, level := !s.pins.consoleLow }
    env := { s.env with calls := s.env.boot } }

end Sys2Proof.Machine
end

