-- ==== Sys2Proof/Machine/Line.lean ====
section
/-! DEFINITION. The line: the four symbols (30_encoding R91 to R97), what the block drives (41_bit_transceiver R180) and
what it reads (R170). -/

namespace Sys2Proof.Machine

/-- The wire symbols (30_encoding R91 to R94). -/
inductive Symbol where
  | bit (v : Bool)
  | consoleStop
  | controllerStop
  deriving DecidableEq, Repr

/-- How long a symbol is low. -/
def symbolLow : Symbol → Nat
  | .bit false => Config.t0Low
  | .bit true => Config.t1Low
  | .consoleStop => Config.thsLow
  | .controllerStop => Config.tcsLow

/-- How long a symbol lasts. -/
def symbolTime : Symbol → Nat
  | .bit _ => Config.tBit
  | .consoleStop => Config.thsLow + Config.thsHigh
  | .controllerStop => Config.tcsLow + Config.tcsHigh

/-- The microseconds of a symbol: true where its sender pulls the line low. -/
def symbolPulls (y : Symbol) : List Bool := (List.range (symbolTime y)).map fun p => decide (p < symbolLow y)

/-- Bit `j` of a frame, most significant bit of each byte first (30_encoding R96, R97). -/
def frameBit (bytes : List Byte) (j : Nat) : Bool := (bytes.getD (j / 8) 0).getLsbD (7 - j % 8)

/-- The microseconds of the bit symbols of a frame (30_encoding R96, R97). -/
def framePulls (bytes : List Byte) : List Bool :=
  (List.range (8 * bytes.length)).flatMap fun j => symbolPulls (.bit (frameBit bytes j))

/-- `joy_drive_low` (41_bit_transceiver R180), 0 whenever `ENG.dir = In` (10_state R28). -/
def joyDriveLow (s : State) : Bool :=
  decide (s.eng.dir = .output) &&
  match s.eng.fsm with
  | .txReply =>
      decide ((s.time - s.eng.txStart) % Config.tBit
        < symbolLow (.bit (frameBit s.eng.reply ((s.time - s.eng.txStart) / Config.tBit))))
  | .txStop => decide (s.time - s.eng.txStart - Config.tByte * s.eng.nreply < symbolLow .controllerStop)
  | _ => false

/-- `joy_in` (41_bit_transceiver R170): high unless the block or the console pulls. -/
def joyIn (s : State) : Bool := !(joyDriveLow s || s.pins.consoleLow)

end Sys2Proof.Machine
end

