-- ==== Sys2Proof/Machine/Engine.lean ====
section
/-! DEFINITION. The engine in one microsecond (41_bit_transceiver R171 to R187), the microsecond of the whole block
(00_scope R8, R12), and how a request is placed for the fetch. The state whose `TIME` is `t` is the state the engine
enters microsecond `t` in (log 24). -/

namespace Sys2Proof.Machine

/-- `R`, the end of the request (41_bit_transceiver R171). -/
def requestEnd (e : Eng) : Nat := e.t0 + Config.tByte * e.nreq

/-- `E`, the `Exec` instant (R171). -/
def execTime (p : Params) (e : Eng) : Nat := requestEnd e + p.stopWait + Config.tDead

/-- The end of the reply bytes, `S + 32*M` (R171). -/
def replyEnd (e : Eng) : Nat := e.txStart + Config.tByte * e.nreply

/-- Idle (R172): a high sample followed by a low one starts an exchange. `ENG.txcount`, the number of bytes sent so far in
the exchange (10_state R25), is then 0: DEDUCED, log 27. -/
def rxStart (t : Nat) (level : Bool) (e : Eng) : Eng :=
  if e.lineQ && !level then { e with fsm := .rxReq, t0 := t, rxcount := 0, rxByte := 0, txcount := 0 } else e

/-- The sample of a bit, 2 into its period, most significant bit first (R173, R174). -/
def rxSample (t : Nat) (level : Bool) (e : Eng) : Eng :=
  if (t - e.t0) % Config.tBit = Config.tSample then
    { e with rxByte := (e.rxByte <<< 1) ||| (BitVec.ofBool level).setWidth 8 }
  else e

/-- A byte complete (R174, R175): stored and counted; the first one gives the length. -/
def rxStore (e : Eng) : Eng :=
  { e with
    req := e.req.set e.rxcount e.rxByte
    rxcount := e.rxcount + 1
    nreq := if e.rxcount = 0 then requestLength e.rxByte else e.nreq
    rxByte := 0 }

/-- What follows the last request bit: the stop wait, or the dead time if `T_STOP_WAIT` is 0 (R175, R176). -/
def rxEnd (p : Params) (e : Eng) : Eng :=
  if e.rxcount = e.nreq then
    if p.stopWait = 0 then { e with fsm := .dead, dir := .output } else { e with fsm := .stopWait }
  else e

/-- RxReq (R173 to R175). -/
def rxStep (p : Params) (t : Nat) (level : Bool) (e : Eng) : Eng :=
  if (t - e.t0) % Config.tByte = Config.tByte - 1 then rxEnd p (rxStore (rxSample t level e)) else rxSample t level e

/-- TxReply (R178, R180): the count of bytes sent, and the stop after the last. -/
def txStep (t : Nat) (e : Eng) : Eng :=
  { e with
    txcount := (t + 1 - e.txStart) / Config.tByte
    fsm := if replyEnd e ≤ t + 1 then .txStop else .txReply }

/-- Flushing (R184): when the flush ends the reply starts, and `ENG.tx_start` is set (10_state R27). -/
def flushStep (flushEnd t : Nat) (e : Eng) : Eng :=
  if flushEnd ≤ t + 1 then { e with fsm := .txReply, txStart := t + 1, txcount := 0 } else e

/-- What the engine's own clock, the end of the flush and the sampled level make of `ENG` at the end of microsecond `t`
(R171). -/
def engAdvance (p : Params) (flushEnd t : Nat) (level : Bool) (e : Eng) : Eng :=
  match e.fsm with
  | .uninit => e
  | .fatal => e
  | .idle => rxStart t level e
  | .rxReq => rxStep p t level e
  | .stopWait => if requestEnd e + p.stopWait ≤ t + 1 then { e with fsm := .dead, dir := .output } else e
  | .dead => if execTime p e ≤ t + 1 then { e with fsm := .exec } else e
  | .exec => e
  | .flushing => flushStep flushEnd t e
  | .txReply => txStep t e
  | .txStop => if replyEnd e + symbolTime .controllerStop ≤ t + 1 then { e with fsm := .idle, dir := .input } else e

/-- `ENG.line_q <- joy_in(t)`, in every state but `Uninit` and `Fatal` (R172, R187). -/
def engSampleLine (level : Bool) (e : Eng) : Eng :=
  if e.fsm = .uninit ∨ e.fsm = .fatal then e else { e with lineQ := level }

/-- The line in this microsecond, and what the engine makes of it. -/
def linePhase (s : State) : State :=
  (s.withWire { driveLow := joyDriveLow s, level := joyIn s }).withEng
    (engSampleLine (joyIn s) (engAdvance s.par s.hold.flushEnd s.time (joyIn s) s.eng))

/-- After the command's rule (40_joybus_commands R135 step 5): the reply starts now, or the engine is in `Flushing` for
`T_FLUSH` if the rule performed a flush (41_bit_transceiver R171, R184); `ENG.tx_start` is then set when the flush ends
(10_state R27). No byte of the reply has been sent yet (R25; log 27). `s` is the state before the rule, `t` after it. -/
def startReply (s t : State) : State :=
  if t.hold.draws ≠ s.hold.draws ∧ t.time < t.hold.flushEnd then
    t.withEng { t.eng with fsm := .flushing, txcount := 0 }
  else t.withEng { t.eng with fsm := .txReply, txStart := t.time, txcount := 0 }

/-- The command in `ENG.req` executed, on the transaction level (00_scope R13). -/
def runCommand (s : State) : Result :=
  match decode s.eng.req with
  | .ok i _ => exec i s
  | .error _ => .refused .requestTooShort

/-- `Exec` (R171): the command's rule, taking no time. -/
def commandPhase (s : State) : Result :=
  if s.eng.fsm = .exec then andThen (runCommand s) (fun t => .next (startReply s t)) else .next s

/-- The engine in one microsecond. -/
def engineAct (s : State) : Result := andThen (commandPhase s) (fun t => .next (linePhase t))

/-- What the environment does in the coming microsecond; past the script's end the levels hold (log 2). -/
def currentInputs (s : State) : Inputs :=
  match s.env.inputs with
  | u :: _ => u
  | [] => { pins := s.pins, rst := false, calls := [], before := [], after := [] }

/-- The input levels of the microsecond in place, and the calls of the orchestrator waiting. -/
def openMicro (s : State) : State :=
  (s.withPins (currentInputs s).pins).withEnv
    { s.env with inputs := s.env.inputs.tail, calls := s.env.calls ++ (currentInputs s).calls }

/-- The engine's `Exec` of this microsecond performs a flush that lasts. -/
def engineFlushDue (s : State) : Bool :=
  decide (s.eng.fsm = .exec) &&
  (match decode s.eng.req with
   | .ok (.write aw _) _ => ckOk aw && pakAccessible (busAddr aw).toNat s && coalesceDue s
   | _ => false)
  && decide (0 < flushTimeNext s)

/-- A waiting `InitPak` of this microsecond formats the pak, with a flush that lasts. -/
def hostFlushDue (s : State) : Bool :=
  decide (s.eng.fsm = .uninit) && !orchestratorBusy s
  && decide (HostOp.initPak ∈ s.env.calls.takeWhile (fun op => op != .initEngine))
  && flashBlank s.flash && decide (0 < flushTimeNext s)

/-- The agents that act before the engine: those the script lists; but a flush that starts in this microsecond holds the
sampler and the handlers in it (60_exceptions R300), so nobody comes before it. Log 6. -/
def actorsBefore (s : State) (listed : List Actor) : List Actor :=
  if engineFlushDue s then []
  else if hostFlushDue s then List.replicate s.env.calls.length .host
  else listed

/-- The microsecond up to the engine's action. -/
def microBefore (s : State) : State :=
  actorsAct (actorsBefore (openMicro s) (currentInputs s).before) (openMicro s)

/-- The microsecond after the engine's action: the listed agents, then everyone still due, then `TIME` (00_scope R8). -/
def microAfter (u : Inputs) (s : State) : State :=
  (actorsAct (u.after ++ actorsAll s) s).withTime (s.time + 1)

/-- One microsecond in which `rst` is not asserted. -/
def micro (s : State) : Result :=
  andThen (engineAct (microBefore s)) (fun t => .next (microAfter (currentInputs s) t))

/-- A request received whole, about to be executed: the bytes in `ENG.req`, the engine in `Exec` (log 12). The coming
microsecond does not assert `rst`. -/
def placeRequest (bytes : List Byte) (s : State) : State :=
  (s.withEng { s.eng with
      fsm := .exec
      dir := .output
      req := bytes
      nreq := requestLength (bytes.headD 0)
      rxcount := requestLength (bytes.headD 0) }).withEnv
    { s.env with
      inputs := match s.env.inputs with
        | [] => []
        | u :: us => { u with rst := false } :: us }

end Sys2Proof.Machine
end

