-- ==== Sys2Proof/Machine/Step.lean ====
section
/-! DEFINITION. The step: one microsecond of the block (00_scope R8), and the placing of an instruction for the fetch. -/

namespace Sys2Proof.Machine

/-- One microsecond. While `rst` is asserted the block holds the reset state and `TIME` does not count (70_reset R330). -/
def step (s : State) : Host.Outcome State Fault Refusal :=
  if (currentInputs s).rst then .next (resetBlock (openMicro s))
  else if Config.timeLimit ≤ s.time + 1 then .fault .timeExhausted
  else micro s

/-- `s` with the instruction of a table word received and about to be executed (log 12). -/
def State.withFetchWord (s : State) (nbits w : Nat) : State := placeRequest (tableBytes nbits w) s

end Sys2Proof.Machine
end

