-- ==== Sys2Proof/Safety.lean ====
section
/-! DEFINITION. What statements call a good state: the invariants of 10_state R40 and of the rules cited below, and the
frames of the commands. -/

namespace Sys2Proof.Machine

/-- No bit outside the fourteen masks (10_state R23, R40). -/
def withinMasks (p : Params) (b : Half) : Prop := b &&& ~~~ maskAll p = 0

/-- The button vectors hold only button bits (R40). -/
structure ButtonsOk (s : State) : Prop where
  snap : withinMasks s.par s.snap.buttons
  lastRaw : withinMasks s.par s.btn.lastRaw
  committed : withinMasks s.par s.btn.committed

/-- `INFO.status[7:3] = 0`, and the pak bits as reset left them (10_state R30, R40). -/
structure StatusOk (s : State) : Prop where
  params : paramsWf s.par = true
  reserved : s.info.status >>> 3 = 0
  pakBits : s.info.status &&& 3 = s.par.statusReset &&& 3

/-- `ENG.req` holds 35 bytes and `ENG.reply` 33 (10_state R24, R25). -/
structure BuffersOk (s : State) : Prop where
  req : s.eng.req.length = Config.reqSize
  reply : s.eng.reply.length = Config.replySize

/-- Every stamp is a past value of `TIME` (43_button R224, 44_pak_store R249), and `TIME` fits its 64 bits. -/
structure StampsOk (s : State) : Prop where
  time : s.time < Config.timeLimit
  lastChange : s.btn.lastChange ≤ s.time
  lastFlush : s.pak.lastFlush ≤ s.time

/-- Both memories are canonical, and a clean initialised buffer mirrors the flash (20_memory R74). -/
structure StoreOk (s : State) : Prop where
  buf : Memory.wf Config.pakFill s.pak.buf = true
  flash : Memory.wf Config.flashFill s.flash = true
  mirror : s.pak.ready = true → s.pak.dirty = false → ∀ i, i < Config.pakSize → s.flashByte i = s.pakByte i

/-- The states of the engine in which the line is an output (41_bit_transceiver R171). -/
def fsmDrives : Fsm → Bool
  | .dead => true
  | .exec => true
  | .flushing => true
  | .txReply => true
  | .txStop => true
  | _ => false

/-- Where the engine stands on the timeline of 41_bit_transceiver R171, with its byte counts (10_state R24, R25). -/
def onTimeline (p : Params) (t : Nat) (e : Eng) : Prop :=
  match e.fsm with
  | .rxReq =>
      e.t0 < t ∧ e.rxcount = (t - e.t0) / Config.tByte ∧ e.txcount = 0
      ∧ (e.rxcount = 0 ∨ e.nreq = requestLength (e.req.headD 0) ∧ e.rxcount < e.nreq)
  | .stopWait =>
      e.nreq = requestLength (e.req.headD 0) ∧ e.rxcount = e.nreq ∧ requestEnd e ≤ t ∧ t < requestEnd e + p.stopWait
      ∧ e.txcount = 0
  | .dead =>
      e.nreq = requestLength (e.req.headD 0) ∧ e.rxcount = e.nreq ∧ requestEnd e + p.stopWait ≤ t ∧ t < execTime p e
      ∧ e.txcount = 0
  | .exec => e.nreq = requestLength (e.req.headD 0) ∧ e.rxcount = e.nreq ∧ t = execTime p e ∧ e.txcount = 0
  | .flushing => execTime p e ≤ t ∧ e.nreply = 1 ∧ e.txcount = 0
  | .txReply =>
      e.txStart ≤ t ∧ t < replyEnd e ∧ e.txcount = (t - e.txStart) / Config.tByte ∧ e.nreply ∈ [1, 3, 4, 33]
  | .txStop => replyEnd e ≤ t ∧ t < replyEnd e + symbolTime .controllerStop ∧ e.txcount = e.nreply
  | _ => True

/-- The engine is on its timeline, the line is an output exactly in the states the timeline says, and a flush is in
progress exactly in `Flushing` or inside `InitPak` (41_bit_transceiver R171, R184; 60_exceptions R300; log 7). -/
structure EngineOk (s : State) : Prop where
  buffers : BuffersOk s
  timeline : onTimeline s.par s.time s.eng
  dir : s.eng.dir = .output ↔ fsmDrives s.eng.fsm = true
  flushing : s.eng.fsm = .flushing → s.time < s.hold.flushEnd
  notHeld : s.eng.fsm ≠ .uninit → s.eng.fsm ≠ .flushing → s.hold.flushEnd ≤ s.time

/-- `t` differs from `s` at most in `ENG.*`. -/
def onlyEngChanged (s t : State) : Prop := t = s.withEng t.eng

/-- `ENG` of `t` is that of `s` but for the reply buffer and its length. -/
def onlyReplyChanged (s t : State) : Prop :=
  t.eng = { s.eng with reply := t.eng.reply, nreply := t.eng.nreply }

/-- The reply bytes of the exchange: `ENG.reply[0 .. ENG.nreply-1]`. -/
def replyBytes (s : State) : List Byte := s.eng.reply.take s.eng.nreply

/-- The next `n` microseconds of the script do not assert `rst`. -/
def noRst (n : Nat) (s : State) : Prop := ∀ u ∈ s.env.inputs.take n, u.rst = false

end Sys2Proof.Machine
end

