-- ==== Sys2Proof/WellFormed.lean ====
section
/-! DEFINITION. Which terms of `Instr` are requests of 30_encoding R98 to R102. -/

namespace Sys2Proof

/-- WRITE carries 32 data bytes (30_encoding R99); an UNKNOWN command byte is one no other row matches (R102). -/
def Instr.wellFormed : Instr → Bool
  | .info => true
  | .poll => true
  | .read _ => true
  | .write _ data => data.length == Config.block
  | .reset => true
  | .unknown cmd =>
      cmd != Config.cmdInfo && cmd != Config.cmdPoll && cmd != Config.cmdRead && cmd != Config.cmdWrite
      && cmd != Config.cmdReset

end Sys2Proof
end

