-- ==== Sys2Proof/Certificates/Slice0/Obligations.lean ====
section
/-! DEFINITION. The statements for the provers. Each docstring names the part of spec/ it formalises. -/

open Sys2Proof Sys2Proof.Machine

/-- The bytes 00, 01, 02 00 35, 03 80 01 AA*32, FF and 7B decode to INFO, POLL, READ of word 0x0035, WRITE of word
0x8001 with 32 bytes AA, RESET and UNKNOWN 0x7B. -/
def Obligations.DecodedWordsOfEachCommand : Prop :=
  decode [0x00] = .ok .info []
  ∧ decode [0x01] = .ok .poll []
  ∧ decode [0x02, 0x00, 0x35] = .ok (.read 0x0035) []
  ∧ decode (0x03 :: 0x80 :: 0x01 :: List.replicate 32 0xAA) = .ok (.write 0x8001 (List.replicate 32 0xAA)) []
  ∧ decode [0xFF] = .ok .reset []
  ∧ decode [0x7B] = .ok (.unknown 0x7B) []

/-- For every well-formed command, with every operand at every value, and whatever bytes follow, decoding its request
bytes gives the command and the bytes that follow. -/
def Obligations.EncodeThenDecode : Prop :=
  ∀ (i : Instr) (rest : List Byte), i.wellFormed = true → decode (encode i ++ rest) = .ok i rest

/-- If bytes decode to a command with some bytes left over, the command is well-formed, the bytes are its encoding
followed by what is left, and the encoding has the length that the first byte decides. -/
def Obligations.DecodeThenEncode : Prop :=
  ∀ (bytes : List Byte) (i : Instr) (rest : List Byte), decode bytes = .ok i rest →
    i.wellFormed = true ∧ bytes = encode i ++ rest ∧ (encode i).length = requestLength (bytes.headD 0)

/-- Bytes decode to a command if and only if there is a first byte and there are at least as many bytes as that first
byte alone decides; no command byte is illegal. -/
def Obligations.DecodesExactlyWhenLongEnough : Prop :=
  ∀ bytes : List Byte,
    (∃ i rest, decode bytes = .ok i rest) ↔ bytes ≠ [] ∧ requestLength (bytes.headD 0) ≤ bytes.length

/-- AddrCk of an exclusive or is the exclusive or of the AddrCks; AddrCk of an address is AddrCk of it with bits 4:0
cleared; AddrCk of the eleven single-bit addresses 0x8000 down to 0x0020 are the eleven table entries in order. -/
def Obligations.AddressChecksumIsLinear : Prop :=
  (∀ a b : Half, addrCk (a ^^^ b) = addrCk a ^^^ addrCk b)
  ∧ (∀ a : Half, addrCk (a &&& 0xFFE0) = addrCk a)
  ∧ ([0x8000, 0x4000, 0x2000, 0x1000, 0x0800, 0x0400, 0x0200, 0x0100, 0x0080, 0x0040, 0x0020] : List Half).map addrCk
      = [0x01, 0x1A, 0x0D, 0x1C, 0x0E, 0x07, 0x19, 0x16, 0x0B, 0x1F, 0x15]

/-- CkOk of a word is true exactly when the checksum of its address bits equals its bits 4:0; for each value of bits
15:5 exactly one value of bits 4:0 is accepted; 2048 of the 65536 words are accepted. -/
def Obligations.AddressWordAcceptedExactlyOnMatch : Prop :=
  (∀ aw : Half, ckOk aw = true ↔ (addrCk (aw &&& 0xFFE0)).toNat = (aw &&& 0x001F).toNat)
  ∧ (∀ top : BitVec 11, ∃ ck : BitVec 5, ∀ c : BitVec 5, ckOk (top ++ c) = true ↔ c = ck)
  ∧ ((List.range 65536).filter fun n => ckOk (BitVec.ofNat 16 n)).length = 2048

/-- For lists of equal length the CRC of the bytewise exclusive or is the exclusive or of the CRCs; zero bytes give 0;
zero bytes in front change nothing; an appended zero byte applies eight more shifts; the CRC of 32 zero bytes is not
the forced 0xFF. -/
def Obligations.CrcIsLinear : Prop :=
  (∀ d e : List Byte, d.length = e.length → crc8 (List.zipWith (fun x y => x ^^^ y) d e) = crc8 d ^^^ crc8 e)
  ∧ (∀ n : Nat, crc8 (List.replicate n 0) = 0)
  ∧ (∀ (n : Nat) (d : List Byte), crc8 (List.replicate n 0 ++ d) = crc8 d)
  ∧ (∀ d : List Byte, crc8 (d ++ [0]) =
      crcShift (crcShift (crcShift (crcShift (crcShift (crcShift (crcShift (crcShift (crc8 d)))))))))
  ∧ crc8 (List.replicate 32 0) ≠ 0xFF

/-- In every state INFO answers a next state whose reply is 0x05, 0x00 and INFO.status as it stands; of the whole
state only ENG.reply and ENG.nreply differ: no register, no flag, no byte of the pak or the flash. -/
def Obligations.InfoRepliesIdentityAndStatus : Prop :=
  ∀ s : State, ∃ t, exec .info s = .next t ∧ replyBytes t = [0x05, 0x00, s.info.status]
    ∧ onlyEngChanged s t ∧ onlyReplyChanged s t
    ∧ ∀ a, t.pakByte a = s.pakByte a ∧ t.flashByte a = s.flashByte a

/-- For every command byte from 0x04 to 0xFE: its request is one byte, it decodes to UNKNOWN, and executing it in any
state is executing INFO: a next state with the reply 05, 00, status. -/
def Obligations.UnknownActsAsInfo : Prop :=
  ∀ cmd : Byte, 0x04 ≤ cmd → cmd ≤ 0xFE →
    requestLength cmd = 1 ∧ (∀ rest, decode (cmd :: rest) = .ok (.unknown cmd) rest)
    ∧ ∀ s : State, exec (.unknown cmd) s = exec .info s
      ∧ ∃ t, exec (.unknown cmd) s = .next t ∧ replyBytes t = [0x05, 0x00, s.info.status]
        ∧ onlyEngChanged s t ∧ onlyReplyChanged s t

/-- In every state RESET answers a next state in which INFO.status has bit 2 clear and every other bit as before, the
reply is 0x05, 0x00 and that new status, and nothing but INFO.status and the reply buffer differs: no byte of the pak
or the flash. -/
def Obligations.ResetClearsCrcErrorThenIdentifies : Prop :=
  ∀ s : State, ∃ t, exec .reset s = .next t ∧ replyBytes t = [0x05, 0x00, t.info.status]
    ∧ (∀ k, t.info.status.getLsbD k = (s.info.status.getLsbD k && decide (k ≠ 2)))
    ∧ t = { s with eng := t.eng, info := t.info } ∧ onlyReplyChanged s t
    ∧ ∀ a, t.pakByte a = s.pakByte a ∧ t.flashByte a = s.flashByte a

/-- In every state POLL answers a next state whose reply is the high and the low byte of the transmitted word and the
two stick bytes; the word is SNAP.buttons, but with bit 15 set and MASK_START cleared when MASK_L, MASK_R and
MASK_START are all set in it; SNAP and everything else but the reply buffer are unchanged. -/
def Obligations.PollRepliesSnapshot : Prop :=
  ∀ s : State, ∃ t, exec .poll s = .next t
    ∧ (∃ w : Half,
        w = (if s.snap.buttons &&& maskLRS s.par = maskLRS s.par
          then (s.snap.buttons ||| 0x8000) &&& ~~~ maskStart s.par else s.snap.buttons)
        ∧ replyBytes t = [w.extractLsb' 8 8, w.extractLsb' 0 8, s.snap.stickX, s.snap.stickY])
    ∧ onlyEngChanged s t ∧ onlyReplyChanged s t
    ∧ ∀ a, t.pakByte a = s.pakByte a ∧ t.flashByte a = s.flashByte a

/-- With a legal button layout and a stored vector that has only button bits: bit 15 of the transmitted word is 1
exactly when L, R and Start are all set in the vector; every other bit is the vector's bit, except that the Start bit
is 0 when all three are set. -/
def Obligations.PollWordBits : Prop :=
  ∀ (p : Params) (b : Half), paramsWf p = true → withinMasks p b →
    ((pollWord p b).getLsbD 15 = true ↔ b &&& maskLRS p = maskLRS p)
    ∧ ∀ k, k < 15 → (pollWord p b).getLsbD k =
        (b.getLsbD k && !(decide (b &&& maskLRS p = maskLRS p) && (maskStart p).getLsbD k))

/-- In every state and for every address word READ answers a next state. With a matching checksum the reply is 32
bytes and their CRC-8, byte j being the pak byte at the address plus j if the pak is ready and the address is below
0x8000, else 0, and the status is unchanged. With a wrong checksum the reply is 32 zeros and 0xFF and the status has
bit 2 set and its other bits as before. Nothing else changes: no byte of the pak or the flash. -/
def Obligations.ReadRepliesBlockOrFailure : Prop :=
  ∀ (aw : Half) (s : State), ∃ t, exec (.read aw) s = .next t
    ∧ (ckOk aw = true → t.info = s.info ∧ ∃ data : List Byte, data.length = 32 ∧ replyBytes t = data ++ [crc8 data]
        ∧ ∀ j, j < 32 → data.getD j 0 =
          if s.pak.ready = true ∧ (aw &&& 0xFFE0).toNat < 32768 then s.pakByte ((aw &&& 0xFFE0).toNat + j) else 0)
    ∧ (ckOk aw = false → t.info.status = s.info.status ||| 0x04 ∧ replyBytes t = List.replicate 32 0 ++ [0xFF])
    ∧ t = { s with eng := t.eng, info := t.info } ∧ onlyReplyChanged s t
    ∧ ∀ a, t.pakByte a = s.pakByte a ∧ t.flashByte a = s.flashByte a

/-- For 32 data bytes and a canonical pak buffer WRITE answers a next state. The reply is the CRC-8 of the data, with
every bit inverted if PAK_REMOVED is set. The status is unchanged on a matching checksum and has bit 2 set on a wrong
one. A pak byte changes only if the checksum matches, the pak is ready, the address is below 0x8000 and the byte lies
in the 32 bytes from the address on; it then holds its data byte. Besides the store, its flush record, the status and
the reply buffer nothing changes. -/
def Obligations.WriteCommitsExactlyItsBlock : Prop :=
  ∀ (aw : Half) (data : List Byte) (s : State), data.length = 32 → Memory.wf Config.pakFill s.pak.buf = true →
    ∃ t, exec (.write aw data) s = .next t
    ∧ replyBytes t = [if s.info.status.getLsbD 1 = true then crc8 data ^^^ 0xFF else crc8 data]
    ∧ t.info.status = (if ckOk aw = true then s.info.status else s.info.status ||| 0x04)
    ∧ (∀ a, t.pakByte a =
        if ckOk aw = true ∧ s.pak.ready = true ∧ (aw &&& 0xFFE0).toNat < 32768
            ∧ (aw &&& 0xFFE0).toNat ≤ a ∧ a < (aw &&& 0xFFE0).toNat + 32
        then data.getD (a - (aw &&& 0xFFE0).toNat) 0 else s.pakByte a)
    ∧ t.pak.ready = s.pak.ready
    ∧ t = { s with eng := t.eng, info := t.info, pak := t.pak, flash := t.flash, hold := t.hold }
    ∧ onlyReplyChanged s t

/-- For a canonical pak buffer WRITE answers a next state in which: if it does not commit (wrong checksum, pak not
ready, or address 0x8000 and above), pak, flash and flush record are unchanged; if it commits less than 1000000
microseconds after the last flush, the pak is dirty and the flash, the flush stamp and the flush record are unchanged;
if it commits later, the pak is clean, the stamp is the present time, every flash byte equals its pak byte, and one
duration T_FLUSH has been drawn, whatever it is, the flush ending T_FLUSH after the present time. -/
def Obligations.WriteFlushesAfterOneSecond : Prop :=
  ∀ (aw : Half) (data : List Byte) (s : State), data.length = 32 → Memory.wf Config.pakFill s.pak.buf = true →
    ∃ t, exec (.write aw data) s = .next t
    ∧ (¬(ckOk aw = true ∧ s.pak.ready = true ∧ (aw &&& 0xFFE0).toNat < 32768) →
        t.pak = s.pak ∧ t.flash = s.flash ∧ t.hold = s.hold)
    ∧ (ckOk aw = true ∧ s.pak.ready = true ∧ (aw &&& 0xFFE0).toNat < 32768 →
        (s.time - s.pak.lastFlush < 1000000 →
          t.pak.dirty = true ∧ t.pak.lastFlush = s.pak.lastFlush ∧ t.flash = s.flash ∧ t.hold = s.hold)
        ∧ (1000000 ≤ s.time - s.pak.lastFlush →
          t.pak.dirty = false ∧ t.pak.lastFlush = s.time ∧ (∀ a, a < 32768 → t.flashByte a = t.pakByte a)
          ∧ t.hold.flushEnd = s.time + flushTimeNext s ∧ t.hold.draws = s.hold.draws + 1
          ∧ t.hold.times = s.hold.times.tail))

/-- With a ready, canonical pak: after a WRITE of 32 bytes with a matching checksum and an address below 0x8000, a
READ of any matching word replies the written bytes and their CRC-8 if its address is the same, and what it would have
replied before the WRITE if its address differs. -/
def Obligations.ReadAfterWriteReturnsTheData : Prop :=
  ∀ (aw bw : Half) (data : List Byte) (s t u v : State), data.length = 32 → Memory.wf Config.pakFill s.pak.buf = true →
    s.pak.ready = true → ckOk aw = true → (aw &&& 0xFFE0).toNat < 32768 → ckOk bw = true →
    exec (.write aw data) s = .next t → exec (.read bw) t = .next u → exec (.read bw) s = .next v →
    (bw &&& 0xFFE0 = aw &&& 0xFFE0 → replyBytes u = data ++ [crc8 data])
    ∧ (bw &&& 0xFFE0 ≠ aw &&& 0xFFE0 → replyBytes u = replyBytes v)

/-- Whatever command gives a next state: SNAP, both axes, BTN, SMP.next, QD.initialized, the two identity bytes,
INFO.status[1:0] and TIME are unchanged; PAK and FLASH are unchanged unless it is WRITE; CRC_ERROR becomes set only by
READ or WRITE and becomes clear only by RESET. And every first byte of a 35-byte buffer selects a command. -/
def Obligations.CommandsTouchOnlyTheirOwnState : Prop :=
  (∀ (i : Instr) (s t : State), exec i s = .next t →
    t.snap = s.snap ∧ t.axX = s.axX ∧ t.axY = s.axY ∧ t.btn = s.btn ∧ t.smpNext = s.smpNext ∧ t.qdInit = s.qdInit
    ∧ t.info.idHigh = s.info.idHigh ∧ t.info.idLow = s.info.idLow ∧ t.info.status &&& 3 = s.info.status &&& 3
    ∧ t.time = s.time
    ∧ ((∀ aw data, i ≠ .write aw data) → t.pak = s.pak ∧ t.flash = s.flash)
    ∧ (crcError s = false → crcError t = true → (∃ aw, i = .read aw) ∨ ∃ aw data, i = .write aw data)
    ∧ (crcError s = true → crcError t = false → i = .reset))
  ∧ (∀ bytes : List Byte, bytes.length = 35 → ∃ i rest, decode bytes = .ok i rest)

/-- Two states that agree on the parameters, ENG, SNAP, INFO, the pak bytes and PAK.ready, but may differ in FLASH,
BTN, the axes, TIME and all else, give the same reply, the same status and the same pak bytes after any command. -/
def Obligations.RepliesTellOnlyWhatTheConsoleMaySee : Prop :=
  ∀ (i : Instr) (s s' t t' : State), s.par = s'.par → s.eng = s'.eng → s.snap = s'.snap → s.info = s'.info →
    s.pak.buf = s'.pak.buf → s.pak.ready = s'.pak.ready → exec i s = .next t → exec i s' = .next t' →
    t.eng = t'.eng ∧ t.info = t'.info ∧ t.pak.buf = t'.pak.buf ∧ t.pak.ready = t'.pak.ready

/-- MemRead of any address and length gives exactly that many bytes; byte j is the pak byte at the address plus j if
the pak is ready, the address is below 32768 and so is the address plus j; otherwise it is 0. -/
def Obligations.PakReadTruncatesWithZeros : Prop :=
  ∀ (addr len : Nat) (s : State), (pakRead addr len s).length = len
    ∧ ∀ j, j < len → (pakRead addr len s).getD j 0 =
        if s.pak.ready = true ∧ addr < 32768 ∧ addr + j < 32768 then s.pakByte (addr + j) else 0

/-- MemWrite of any address, length and at least as many bytes, on a canonical buffer: a byte in the window and below
32768 holds its data byte if the pak is ready and the address below 32768; every other byte is as before; the buffer
stays canonical. A refused write changes nothing at all. A write that is not refused leaves the pak dirty and the
flash, the stamp and the flush record as before if less than 1000000 microseconds have passed since the last flush;
else it flushes: the pak is clean, the stamp is the present time, every flash byte equals its pak byte and one T_FLUSH
has been drawn. PAK.ready and everything outside the store are unchanged. -/
def Obligations.PakWriteChangesOnlyItsWindow : Prop :=
  ∀ (addr len : Nat) (data : List Byte) (s : State), len ≤ data.length → Memory.wf Config.pakFill s.pak.buf = true →
    Memory.wf Config.pakFill (pakWrite addr len data s).pak.buf = true
    ∧ (∀ a, (pakWrite addr len data s).pakByte a =
        if s.pak.ready = true ∧ addr < 32768 ∧ addr ≤ a ∧ a < addr + len ∧ a < 32768
        then data.getD (a - addr) 0 else s.pakByte a)
    ∧ (¬(s.pak.ready = true ∧ addr < 32768) → pakWrite addr len data s = s)
    ∧ (s.pak.ready = true ∧ addr < 32768 → s.time - s.pak.lastFlush < 1000000 →
        (pakWrite addr len data s).pak.dirty = true ∧ (pakWrite addr len data s).pak.lastFlush = s.pak.lastFlush
        ∧ (pakWrite addr len data s).flash = s.flash ∧ (pakWrite addr len data s).hold = s.hold)
    ∧ (s.pak.ready = true ∧ addr < 32768 → 1000000 ≤ s.time - s.pak.lastFlush →
        (pakWrite addr len data s).pak.dirty = false ∧ (pakWrite addr len data s).pak.lastFlush = s.time
        ∧ (∀ a, a < 32768 → (pakWrite addr len data s).flashByte a = (pakWrite addr len data s).pakByte a)
        ∧ (pakWrite addr len data s).hold =
          { flushEnd := s.time + flushTimeNext s, draws := s.hold.draws + 1, times := s.hold.times.tail })
    ∧ (pakWrite addr len data s).pak.ready = s.pak.ready
    ∧ pakWrite addr len data s = { s with
        pak := (pakWrite addr len data s).pak
        flash := (pakWrite addr len data s).flash
        hold := (pakWrite addr len data s).hold }

/-- From any flash content, erasing the region and programming pages 0 to 127 in order from a canonical pak buffer
never meets a page that is not freshly erased, programs each page once, and leaves exactly the flash that the one-step
copy of the buffer gives. -/
def Obligations.FlushEqualsErasePlusPages : Prop :=
  ∀ buf m : Memory, Memory.wf Config.pakFill buf = true →
    flashRewrite buf m = .ok { mem := pakToFlash buf, fresh := [] }

/-- In Uninit with a canonical flash, InitPak leaves PAK.ready 1, PAK.dirty 0 and every pak byte equal to its flash
byte. If the first 16 flash bytes are all 0xFF the pak holds 81 80 80 80 and zeros, the flush stamp is the present
time and the flush lasts one drawn T_FLUSH; otherwise the flash, the flush stamp and the flush record are as before.
Nothing else changes. That this holds of a second InitPak in Uninit too (PAK.ready already 1) is the model's choice,
log 15: R278 allows InitPak once. -/
def Obligations.InitPakLoadsOrFormats : Prop :=
  ∀ s : State, s.eng.fsm = .uninit → Memory.wf Config.flashFill s.flash = true →
    (initPak s).pak.ready = true ∧ (initPak s).pak.dirty = false
    ∧ (∀ a, a < 32768 → (initPak s).flashByte a = (initPak s).pakByte a)
    ∧ ((∀ j, j < 16 → s.flashByte j = 0xFF) →
        (∀ a, (initPak s).pakByte a = ([0x81, 0x80, 0x80, 0x80] : List Byte).getD a 0)
        ∧ (initPak s).pak.lastFlush = s.time ∧ (initPak s).hold.flushEnd = s.time + flushTimeNext s)
    ∧ (¬(∀ j, j < 16 → s.flashByte j = 0xFF) →
        (initPak s).flash = s.flash ∧ (initPak s).pak.lastFlush = s.pak.lastFlush ∧ (initPak s).hold = s.hold)
    ∧ initPak s = { s with pak := (initPak s).pak, flash := (initPak s).flash, hold := (initPak s).hold }

/-- QTABLE[p][q] = -QTABLE[q][p] for all sixteen pairs and QTABLE[p][p] = 0; the phases 01, 11, 10, 00 from 00 add +4,
the reverse adds -4; a handler run from 00 to 11 changes last_phase only. -/
def Obligations.QuadratureTableAntisymmetric : Prop :=
  (∀ p q : BitVec 2, qtable p q = - qtable q p) ∧ (∀ p : BitVec 2, qtable p p = 0)
  ∧ ([1, 3, 2, 0] : List (BitVec 2)).foldl (fun c q => (c.1 + qtable c.2 q, q)) ((0 : Int), (0 : BitVec 2)) = (4, 0)
  ∧ ([2, 3, 1, 0] : List (BitVec 2)).foldl (fun c q => (c.1 + qtable c.2 q, q)) ((0 : Int), (0 : BitVec 2)) = (-4, 0)
  ∧ ∀ (a : AxisId) (s : State), (s.ax a).lastPhase = 0 → phase a s = 3 →
      axisHandler a s = s.withAx a { s.ax a with lastPhase := 3 }

/-- Read as a signed byte, get_axis is 0 while the decoder is not initialised, and otherwise the product of position
and SCALE_FACTOR, 0 if its absolute value is below DEADZONE, clamped to -128..127: no position wraps. -/
def Obligations.StickValueIsScaledDeadZonedClamped : Prop :=
  ∀ (a : AxisId) (s : State), (getAxis a s).toInt =
    if s.qdInit = false then 0
    else if ((s.ax a).position * s.par.scale).natAbs < s.par.deadzone then 0
    else max (-128) (min 127 ((s.ax a).position * s.par.scale))

/-- In a microsecond without rst and without a host call, in which the engine's command, if one is executed, starts no
flush that lasts: if the decoder is initialised, no flush is in progress and the phase on the pins differs from
last_phase, the axis gains exactly the table's count once and takes the phase, whatever order the agents act in;
otherwise the axis is unchanged. -/
def Obligations.AxisHandlerRunsOncePerMicrosecond : Prop :=
  ∀ (a : AxisId) (s : State), (currentInputs s).rst = false → s.env.calls = [] → (currentInputs s).calls = [] →
    engineFlushDue (openMicro s) = false →
    (s.eng.fsm = .exec → s.eng.req.length = 35 ∧ s.hold.flushEnd ≤ s.time) → s.time + 1 < Config.timeLimit →
    ∃ t, step s = .next t ∧ t.ax a =
      if s.qdInit = true ∧ s.hold.flushEnd ≤ s.time ∧ phase a (openMicro s) ≠ (s.ax a).lastPhase
      then { position := (s.ax a).position + qtable (s.ax a).lastPhase (phase a (openMicro s))
             lastPhase := phase a (openMicro s) }
      else s.ax a

/-- In every state InitDecoder sets both positions to 0, both last phases to the phases on the pins (line A bit 1,
line B bit 0) and QD.initialized to 1, and changes nothing else. -/
def Obligations.InitDecoderLoadsThePhases : Prop :=
  ∀ s : State, hostOp .initDecoder s =
    { s with
      axX := { position := 0, lastPhase := BitVec.ofBool s.pins.encXA ++ BitVec.ofBool s.pins.encXB }
      axY := { position := 0, lastPhase := BitVec.ofBool s.pins.encYA ++ BitVec.ofBool s.pins.encYB }
      qdInit := true }

/-- In every state SetCenter sets both positions to 0, leaves both last phases and all other state as they are, and
while the decoder is not initialised the stick values read the same after it as before. -/
def Obligations.SetCenterZeroesPositionsOnly : Prop :=
  ∀ s : State,
    hostOp .setCenter s =
      { s with axX := { position := 0, lastPhase := s.axX.lastPhase }, axY := { position := 0, lastPhase := s.axY.lastPhase } }
    ∧ ∀ a, s.qdInit = false → getAxis a (hostOp .setCenter s) = getAxis a s

/-- Bit k of the raw sample is 1 exactly when some input i below 14 reads low and its mask has bit k; with a legal
button layout bit 15 is never set. -/
def Obligations.RawSampleIsThePressedMasks : Prop :=
  ∀ s : State,
    (∀ k, (rawButtons s).getLsbD k = true ↔
      ∃ i, i < 14 ∧ s.pins.btnN.getLsbD i = false ∧ (s.par.btnMask.getD i 0).getLsbD k = true)
    ∧ (paramsWf s.par = true → (rawButtons s).getLsbD 15 = false)

/-- A read whose raw sample differs from last_raw updates last_raw; it commits the sample and stamps the time exactly
when at least 5000 microseconds have passed since the last accepted change. Any number of later reads of the same
sample, at any times, change nothing. -/
def Obligations.EarlyChangeIsNeverCommittedByWaiting : Prop :=
  ∀ (now : Nat) (raw : Half) (b : Btn),
    (debounce now raw b).lastRaw = raw
    ∧ (raw ≠ b.lastRaw → now - b.lastChange < 5000 →
        (debounce now raw b).committed = b.committed ∧ (debounce now raw b).lastChange = b.lastChange)
    ∧ (raw ≠ b.lastRaw → 5000 ≤ now - b.lastChange →
        (debounce now raw b).committed = raw ∧ (debounce now raw b).lastChange = now)
    ∧ (raw = b.lastRaw → debounce now raw b = b)
    ∧ ∀ times : List Nat, times.foldl (fun c later => debounce later raw c) (debounce now raw b) = debounce now raw b

/-- In a microsecond without rst or host call, in which the engine's command, if one is executed, starts no flush that
lasts: if SMP.next is not above TIME and no flush is in progress, BTN takes one debounced read of the pins,
SNAP.buttons the committed vector, each stick the axis value from before or after the handler run of that microsecond,
and SMP.next is TIME plus 1000; otherwise BTN, SNAP and SMP.next are unchanged. -/
def Obligations.SamplerTicksWhenDue : Prop :=
  ∀ s : State, (currentInputs s).rst = false → s.env.calls = [] → (currentInputs s).calls = [] →
    engineFlushDue (openMicro s) = false →
    (s.eng.fsm = .exec → s.eng.req.length = 35 ∧ s.hold.flushEnd ≤ s.time) → s.time + 1 < Config.timeLimit →
    ∃ t, step s = .next t
    ∧ (s.smpNext ≤ s.time ∧ s.hold.flushEnd ≤ s.time →
        t.btn = debounce s.time (rawButtons (openMicro s)) s.btn ∧ t.snap.buttons = t.btn.committed
        ∧ (t.snap.stickX = getAxis .x s ∨ t.snap.stickX = getAxis .x t)
        ∧ (t.snap.stickY = getAxis .y s ∨ t.snap.stickY = getAxis .y t)
        ∧ t.smpNext = s.time + 1000)
    ∧ (¬(s.smpNext ≤ s.time ∧ s.hold.flushEnd ≤ s.time) → t.btn = s.btn ∧ t.snap = s.snap ∧ t.smpNext = s.smpNext)

/-- In Uninit, InitEngine makes the engine Idle with the line an input if line_claim_ok is 1, and Fatal if it is 0,
raising the output fatal, and changes nothing else; in any other state it changes nothing, and neither does InitPak.
-/
def Obligations.InitEngineStartsOrFails : Prop :=
  ∀ s : State,
    (s.eng.fsm = .uninit → s.pins.lineClaimOk = true →
      hostOp .initEngine s = { s with eng := { s.eng with fsm := .idle, dir := .input } })
    ∧ (s.eng.fsm = .uninit → s.pins.lineClaimOk = false →
        hostOp .initEngine s = { s with eng := { s.eng with fsm := .fatal } } ∧ fatalOut (hostOp .initEngine s) = true)
    ∧ (s.eng.fsm ≠ .uninit → hostOp .initEngine s = s ∧ hostOp .initPak s = s)

/-- In every state EngineReset leaves INFO.status with bit 2 clear and its other bits as they were, and all other
state, a reply already built included, as it was. -/
def Obligations.EngineResetClearsCrcErrorOnly : Prop :=
  ∀ s : State,
    hostOp .engineReset s = { s with info := (hostOp .engineReset s).info }
    ∧ (hostOp .engineReset s).info.status = s.info.status &&& ~~~ 0x04
    ∧ crcError (hostOp .engineReset s) = false

/-- From Fatal, a microsecond without rst answers a next state in which ENG is unchanged, the output fatal is 1, the
line was released, and the pak and the flash are unchanged, whatever the console, the pins and the host calls do. -/
def Obligations.FatalIsLeftOnlyByRst : Prop :=
  ∀ s : State, s.eng.fsm = .fatal → (currentInputs s).rst = false → s.time + 1 < Config.timeLimit →
    ∃ t, step s = .next t ∧ t.eng = s.eng ∧ fatalOut t = true ∧ t.wire.driveLow = false
      ∧ t.pak = s.pak ∧ t.flash = s.flash

/-- When the engine's turn in a microsecond finds it in Uninit or Fatal, its action answers a next state that differs
only in the line record: joy_drive_low is 0, the level is the console's, and ENG, its line sample included, is
unchanged. -/
def Obligations.SilentInUninitAndFatal : Prop :=
  ∀ s : State, s.eng.fsm = .uninit ∨ s.eng.fsm = .fatal →
    engineAct s = .next { s with wire := { driveLow := false, level := !s.pins.consoleLow } }

/-- A step with rst asserted answers a next state with FLASH as before and every other element at its reset value:
TIME 0, engine Uninit with the line an input and released, INFO.status STATUS_RESET, SNAP, axes, BTN zero, decoder and
pak not initialised, SMP.next 1000. That the calls of the orchestrator's start-up then wait is the model's choice (log
16). -/
def Obligations.RstRestoresTheResetState : Prop :=
  ∀ s : State, (currentInputs s).rst = true → ∃ t, step s = .next t
    ∧ t.flash = s.flash ∧ t.par = s.par ∧ t.time = 0 ∧ t.eng.fsm = .uninit ∧ t.eng.t0 = 0 ∧ t.eng.txStart = 0
    ∧ t.eng.nreq = 0 ∧ t.eng.rxcount = 0 ∧ t.eng.nreply = 0 ∧ t.eng.txcount = 0 ∧ t.eng.lineQ = false
    ∧ t.eng.dir = .input ∧ joyDriveLow t = false ∧ t.snap = { buttons := 0, stickX := 0, stickY := 0 }
    ∧ t.info.status = s.par.statusReset ∧ t.info.idHigh = 0x05 ∧ t.info.idLow = 0x00
    ∧ t.axX = { position := 0, lastPhase := 0 } ∧ t.axY = { position := 0, lastPhase := 0 } ∧ t.qdInit = false
    ∧ t.btn = { lastRaw := 0, committed := 0, lastChange := 0 } ∧ t.smpNext = 1000
    ∧ t.pak.dirty = false ∧ t.pak.lastFlush = 0 ∧ t.pak.ready = false ∧ t.env.calls = s.env.boot

/-- In a state whose engine is in Exec and whose request buffer decodes to a command, a microsecond without rst
answers a next state: it is the command executed in the state that the agents ordered before the engine leave (ENG,
the pak and the flash untouched by them), then the start of the reply, the line in this microsecond, and the agents
after the engine. -/
def Obligations.StepRunsTheDecodedCommand : Prop :=
  ∀ (s : State) (i : Instr) (rest : List Byte), (currentInputs s).rst = false → s.time + 1 < Config.timeLimit →
    s.eng.fsm = .exec → decode s.eng.req = .ok i rest →
    i.wellFormed = true
    ∧ (microBefore s).eng = s.eng ∧ (microBefore s).pak = s.pak ∧ (microBefore s).flash = s.flash
    ∧ (microBefore s).time = s.time
    ∧ ∃ t, exec i (microBefore s) = .next t
      ∧ step s = .next (microAfter (currentInputs s) (linePhase (startReply (microBefore s) t)))

/-- In Exec with the line an output, a decoded command that performs no flush answers a step into TxReply with
ENG.tx_start the present time, and the block pulls the line in that very microsecond. -/
def Obligations.ReplyStartsAtExecWithoutFlush : Prop :=
  ∀ (s : State) (i : Instr) (rest : List Byte), (currentInputs s).rst = false → s.time + 1 < Config.timeLimit →
    s.eng.fsm = .exec → s.eng.dir = .output → decode s.eng.req = .ok i rest →
    (∀ aw data, i = .write aw data →
      ¬(ckOk aw = true ∧ pakAccessible (busAddr aw).toNat s = true ∧ coalesceDue s = true)) →
    ∃ t, step s = .next t ∧ t.eng.fsm = .txReply ∧ t.eng.txStart = s.time ∧ t.eng.txcount = 0 ∧ t.eng.dir = .output
      ∧ t.wire.driveLow = true

/-- In Exec with the line an output, a decoded WRITE with a matching checksum to an accessible address at least one
second after the last flush answers a step in which the flush is done (flash equal to the pak, pak clean, stamp the
present time) and will end T_FLUSH later. The engine is in Flushing with ENG.tx_start as it was, unless at most one
microsecond was drawn: then it is in TxReply and ENG.tx_start is the present time plus the drawn duration. The block
pulled the line in this microsecond only if none was drawn. ENG.txcount is 0: in Flushing that clause is the model's
reading of R25 (log 27). -/
def Obligations.FlushDelaysTheReply : Prop :=
  ∀ (s : State) (aw : Half) (data rest : List Byte), (currentInputs s).rst = false → s.time + 1 < Config.timeLimit →
    s.eng.fsm = .exec → s.eng.dir = .output → Memory.wf Config.pakFill s.pak.buf = true →
    decode s.eng.req = .ok (.write aw data) rest →
    ckOk aw = true → pakAccessible (busAddr aw).toNat s = true → coalesceDue s = true →
    ∃ t, step s = .next t ∧ t.hold.flushEnd = s.time + flushTimeNext s
      ∧ t.eng.txStart = (if flushTimeNext s ≤ 1 then s.time + flushTimeNext s else s.eng.txStart)
      ∧ t.eng.txcount = 0
      ∧ t.eng.fsm = (if flushTimeNext s ≤ 1 then .txReply else .flushing)
      ∧ t.wire.driveLow = decide (flushTimeNext s = 0)
      ∧ t.pak.dirty = false ∧ t.pak.lastFlush = s.time ∧ ∀ a, a < 32768 → t.flashByte a = t.pakByte a

/-- In Exec, when the decoded command is a WRITE that flushes for a positive T_FLUSH and no host call is made, the
step leaves SNAP, BTN, SMP.next and both axes as they were, in whatever order the agents were to act. That no scripted
order puts an agent before the flush in this microsecond is the model's reading of R300 against R12 (log 6). -/
def Obligations.FlushHoldsSamplerAndHandlersAtOnce : Prop :=
  ∀ (s t : State) (aw : Half) (data rest : List Byte), (currentInputs s).rst = false →
    s.env.calls = [] → (currentInputs s).calls = [] → s.eng.fsm = .exec →
    decode s.eng.req = .ok (.write aw data) rest → ckOk aw = true → pakAccessible (busAddr aw).toNat s = true →
    coalesceDue s = true → 0 < flushTimeNext s → step s = .next t →
    t.snap = s.snap ∧ t.btn = s.btn ∧ t.smpNext = s.smpNext ∧ t.axX = s.axX ∧ t.axY = s.axY

/-- While a flush is in progress and no command is executing, a microsecond without rst or host call answers a next
state with SNAP, BTN, SMP.next, both axes, the pak and the flash unchanged and TIME one higher. -/
def Obligations.FlushInProgressFreezesTheOthers : Prop :=
  ∀ s : State, (currentInputs s).rst = false → s.env.calls = [] → (currentInputs s).calls = [] →
    s.eng.fsm ≠ .exec → s.time < s.hold.flushEnd → s.time + 1 < Config.timeLimit →
    ∃ t, step s = .next t ∧ t.time = s.time + 1 ∧ t.snap = s.snap ∧ t.btn = s.btn ∧ t.smpNext = s.smpNext
      ∧ t.axX = s.axX ∧ t.axY = s.axY ∧ t.pak = s.pak ∧ t.flash = s.flash

/-- From Idle, a microsecond without rst answers a next state: if the last sampled level was high and the console
pulls the line now, the engine is in RxReq with t0 the present time and no byte received or sent; otherwise it stays
in Idle; in both cases ENG.line_q takes the level, the rest of ENG is as before, and the block releases the line. That
the falling edge sets ENG.txcount to 0 (no byte sent) is not among the writes of R172 but the model's reading of R25
(log 27). -/
def Obligations.FallingEdgeStartsTheExchange : Prop :=
  ∀ s : State, s.eng.fsm = .idle → (currentInputs s).rst = false → s.time + 1 < Config.timeLimit →
    ∃ t, step s = .next t ∧ t.wire.driveLow = false ∧ t.eng =
      if s.eng.lineQ = true ∧ (currentInputs s).pins.consoleLow = true
      then { s.eng with fsm := .rxReq, t0 := s.time, rxcount := 0, rxByte := 0, txcount := 0, lineQ := false }
      else { s.eng with lineQ := !(currentInputs s).pins.consoleLow }

/-- Whatever well-formed command the console sends, as the symbols of its request bytes from Idle with the line high
before, and whatever the other inputs, host calls and agent orders are, as long as rst is not asserted: 32
microseconds per byte, the stop wait and the dead time later the engine is in Exec with the line an output, t0 is the
time of the falling edge, and the request buffer decodes to exactly that command. -/
def Obligations.WireRequestReachesExec : Prop :=
  ∀ (i : Instr) (s : State) (us vs : List Inputs), i.wellFormed = true → s.eng.fsm = .idle → s.eng.lineQ = true →
    s.eng.req.length = 35 → s.env.inputs = us ++ vs →
    us.map (fun u => u.pins.consoleLow) = framePulls (encode i) → (∀ u ∈ us, u.rst = false) →
    (∀ u ∈ vs.take (s.par.stopWait + 1), u.rst = false) →
    s.time + (32 * (encode i).length + s.par.stopWait + 1) < Config.timeLimit →
    ∃ (t : State) (rest : List Byte),
      Host.Core.run Sys2Proof.core (32 * (encode i).length + s.par.stopWait + 1) s = .next t
      ∧ t.eng.fsm = .exec ∧ t.eng.dir = .output ∧ t.eng.t0 = s.time ∧ t.eng.nreq = (encode i).length
      ∧ t.time = s.time + (32 * (encode i).length + s.par.stopWait + 1) ∧ decode t.eng.req = .ok i rest

/-- From TxReply, any number of microseconds into a reply of at least one byte, and whatever the inputs are as long as
rst is not asserted: in each following microsecond up to the end of the controller stop the block pulls the line
exactly where the symbols of the reply bytes and the controller stop say; the microsecond after, the engine is in Idle
with the line an input. -/
def Obligations.ReplyAppearsOnTheWire : Prop :=
  ∀ (s : State) (d k : Nat), s.eng.fsm = .txReply → s.eng.dir = .output → s.time = s.eng.txStart + d →
    d < 32 * s.eng.nreply → s.eng.nreply ≤ s.eng.reply.length →
    d + k < 32 * s.eng.nreply + 3 → noRst (k + 1) s → s.time + (k + 1) < Config.timeLimit →
    ∃ t : State, Host.Core.run Sys2Proof.core (k + 1) s = .next t
      ∧ t.wire.driveLow = (framePulls (replyBytes s) ++ symbolPulls .controllerStop).getD (d + k) false
      ∧ t.eng.reply = s.eng.reply ∧ t.eng.nreply = s.eng.nreply
      ∧ (d + k + 1 = 32 * s.eng.nreply + 3 → t.eng.fsm = .idle ∧ t.eng.dir = .input)

/-- From every state whose request buffer has its 35 bytes, whatever the inputs, a step answers a next state, as long
as TIME is not at the end of its 64 bits. -/
def Obligations.NoStepStops : Prop :=
  ∀ s : State, s.eng.req.length = 35 → s.time + 1 < Config.timeLimit → ∃ t, step s = .next t

/-- If a step takes CRC_ERROR from 1 to 0, then rst was asserted, or the engine executed a request whose first byte is
0xFF, or EngineReset was among the host calls waiting or made in that microsecond. -/
def Obligations.CrcErrorIsSticky : Prop :=
  ∀ s t : State, step s = .next t → crcError s = true → crcError t = false →
    (currentInputs s).rst = true ∨ (s.eng.fsm = .exec ∧ s.eng.req.headD 0 = 0xFF)
    ∨ HostOp.engineReset ∈ s.env.calls ++ (currentInputs s).calls

/-- If a step changes FLASH, then the engine executed a WRITE with a matching checksum to an accessible address at
least one second after the last flush, or the engine was in Uninit, InitPak was among the host calls waiting or made,
and the first 16 flash bytes were all 0xFF. -/
def Obligations.FlashChangesOnlyByFlush : Prop :=
  ∀ s t : State, step s = .next t → t.flash ≠ s.flash →
    (s.eng.fsm = .exec ∧ ∃ aw data rest, decode s.eng.req = .ok (.write aw data) rest ∧ ckOk aw = true
      ∧ pakAccessible (busAddr aw).toNat s = true ∧ coalesceDue s = true)
    ∨ (s.eng.fsm = .uninit ∧ HostOp.initPak ∈ s.env.calls ++ (currentInputs s).calls
      ∧ ∀ j, j < 16 → s.flashByte j = 0xFF)

/-- If SNAP.buttons, BTN.last_raw and BTN.committed have no bit outside the masks, they have none after any step. -/
def Obligations.StepKeepsButtonVectors : Prop :=
  ∀ s t : State, ButtonsOk s → step s = .next t → ButtonsOk t

/-- With legal parameters, INFO.status[7:3] zero and INFO.status[1:0] as in STATUS_RESET, the same holds after any
step. -/
def Obligations.StepKeepsStatus : Prop :=
  ∀ s t : State, StatusOk s → step s = .next t → StatusOk t

/-- If TIME is below 2^64 and BTN.last_change and PAK.last_flush are not above it, the same holds after any step. -/
def Obligations.StepKeepsStamps : Prop :=
  ∀ s t : State, StampsOk s → step s = .next t → StampsOk t

/-- If both memories are in canonical form, and the pak bytes equal the flash bytes whenever the pak is ready and
clean, the same holds after any step: the write-back buffer never silently differs from its mirror. -/
def Obligations.StepKeepsStore : Prop :=
  ∀ s t : State, StoreOk s → step s = .next t → StoreOk t

/-- If the request and reply buffers have their sizes, the engine stands where the timeline of an exchange puts its
state (with its byte counts), the line is an output exactly in Dead, Exec, Flushing, TxReply and TxStop, and outside
Uninit a flush is in progress exactly in Flushing, the same holds after any step. That no engine leaves Uninit while
InitPak's flush is in progress is the model's reading (log 7), and so is every byte count ENG.txcount outside TxReply
(R25, log 27). -/
def Obligations.StepKeepsEngineOnTimeline : Prop :=
  ∀ s t : State, EngineOk s → step s = .next t → EngineOk t

/-- The reset state has its button vectors within the masks, its status, stamps and memories as the invariants ask,
and its engine on the timeline. That its parameters are legal and its memories list nothing are the model's choices
(logs 4, 8 and 9). -/
def Obligations.ResetMeetsTheInvariants : Prop :=
  ButtonsOk State.reset ∧ StatusOk State.reset ∧ StampsOk State.reset ∧ StoreOk State.reset ∧ EngineOk State.reset

/-- In every state InitButtons sets BTN.last_raw, BTN.committed and BTN.last_change to 0 and changes nothing else. -/
def Obligations.InitButtonsZeroesTheReader : Prop :=
  ∀ s : State, hostOp .initButtons s = { s with btn := { lastRaw := 0, committed := 0, lastChange := 0 } }

/-- In a microsecond without rst, in which the orchestrator is not inside InitPak's flush, no waiting InitPak starts a
flush that lasts, and neither a handler nor the sampler is due (or a flush in progress holds them): no call waits
afterwards, and QD.initialized, both axes, BTN, SNAP and SMP.next are what the waiting calls followed by the new ones
make of them in that order. Outside Exec so are PAK, FLASH, the flush record and INFO. In Uninit with ENG.line_q 0 so
is ENG.fsm. -/
def Obligations.StepPerformsTheWaitingCalls : Prop :=
  ∀ s u : State, (currentInputs s).rst = false → s.time + 1 < Config.timeLimit → s.eng.req.length = 35 →
    orchestratorBusy s = false → hostFlushDue (openMicro s) = false →
    ((s.eng.fsm ≠ .exec ∧ s.time < s.hold.flushEnd)
      ∨ ((∀ a, s.qdInit = true → phase a (openMicro s) = (s.ax a).lastPhase) ∧ s.time < s.smpNext)) →
    u = (s.env.calls ++ (currentInputs s).calls).foldl (fun c op => hostOp op c) (openMicro s) →
    ∃ t, step s = .next t ∧ t.env.calls = []
      ∧ t.qdInit = u.qdInit ∧ t.axX = u.axX ∧ t.axY = u.axY ∧ t.btn = u.btn ∧ t.snap = s.snap ∧ t.smpNext = s.smpNext
      ∧ (s.eng.fsm ≠ .exec → t.pak = u.pak ∧ t.flash = u.flash ∧ t.hold = u.hold ∧ t.info = u.info)
      ∧ (s.eng.fsm = .uninit → s.eng.lineQ = false → t.eng.fsm = u.eng.fsm)

/-- In Uninit with no flush in progress, an InitPak among the calls with no InitEngine before it, blank flash and a
positive T_FLUSH: the step performs the calls before the InitPak and the InitPak, which formats, and those behind it
wait; ENG, SNAP and SMP.next are unchanged. While that flush is in progress a step without rst performs no call and
changes only TIME, the levels, the line record and the script. Three clauses are the model's readings: that the calls
wait (R334, log 7), that PAK.ready is 1 from the start of the flush (log 26), and that no handler or sampler acts
before the InitPak, whatever the script lists (R300, log 6). -/
def Obligations.CallsBehindAFormattingInitPakWait : Prop :=
  ∀ (s : State) (calls : List HostOp), (currentInputs s).rst = false → s.time + 1 < Config.timeLimit →
    s.eng.fsm = .uninit → calls = s.env.calls ++ (currentInputs s).calls →
    (s.hold.flushEnd ≤ s.time → HostOp.initPak ∈ calls.takeWhile (fun op => op != .initEngine) →
      (∀ j, j < 16 → s.flashByte j = 0xFF) → 0 < flushTimeNext s →
      ∃ t u, step s = .next t
        ∧ u = (calls.takeWhile (fun op => op != .initPak)).foldl (fun c op => hostOp op c) (openMicro s)
        ∧ t.env.calls = (calls.dropWhile (fun op => op != .initPak)).tail
        ∧ t.hold.flushEnd = s.time + flushTimeNext s
        ∧ t.pak.ready = true ∧ t.pak.dirty = false ∧ t.pak.lastFlush = s.time
        ∧ (∀ a, t.pakByte a = ([0x81, 0x80, 0x80, 0x80] : List Byte).getD a 0)
        ∧ (∀ a, a < 32768 → t.flashByte a = t.pakByte a)
        ∧ t.qdInit = u.qdInit ∧ t.axX = u.axX ∧ t.axY = u.axY ∧ t.btn = u.btn ∧ t.info = u.info
        ∧ t.eng = s.eng ∧ t.snap = s.snap ∧ t.smpNext = s.smpNext)
    ∧ (s.time < s.hold.flushEnd →
      ∃ t, step s = .next t ∧ t.env.calls = calls
        ∧ t = { s with
            time := s.time + 1
            pins := t.pins
            wire := t.wire
            env := t.env })

/-- From Flushing, whatever the inputs, host calls and agent orders are as long as rst is not asserted: in each
microsecond before the end of the flush the block releases the line and keeps the reply, and the engine stays in
Flushing until the state at the end of the flush, which is TxReply with ENG.tx_start that very time and no byte sent.
That ENG.txcount keeps its value in Flushing is the model's reading (log 27). -/
def Obligations.LineIsReleasedForTheWholeFlush : Prop :=
  ∀ (s : State) (k : Nat), s.eng.fsm = .flushing → s.time + k < s.hold.flushEnd → noRst (k + 1) s →
    s.time + (k + 1) < Config.timeLimit →
    ∃ t : State, Host.Core.run Sys2Proof.core (k + 1) s = .next t ∧ t.time = s.time + (k + 1)
      ∧ t.wire.driveLow = false ∧ t.hold = s.hold ∧ t.eng.reply = s.eng.reply ∧ t.eng.nreply = s.eng.nreply
      ∧ t.eng.dir = s.eng.dir
      ∧ (t.time < s.hold.flushEnd → t.eng.fsm = .flushing ∧ t.eng.txStart = s.eng.txStart ∧ t.eng.txcount = s.eng.txcount)
      ∧ (t.time = s.hold.flushEnd → t.eng.fsm = .txReply ∧ t.eng.txStart = s.hold.flushEnd ∧ t.eng.txcount = 0)

/-- From every engine state but Uninit and Fatal, a microsecond without rst answers a next state in which the line was
low exactly if the block or the console pulled it, and ENG.line_q is that level. In Idle, RxReq, StopWait, Dead and
Flushing, and whenever ENG.dir is In, the block released it. -/
def Obligations.LineIsSampledInEveryStartedState : Prop :=
  ∀ s : State, s.eng.fsm ≠ .uninit → s.eng.fsm ≠ .fatal → (currentInputs s).rst = false →
    s.time + 1 < Config.timeLimit → s.eng.req.length = 35 →
    ∃ t, step s = .next t ∧ t.wire.level = !(t.wire.driveLow || (currentInputs s).pins.consoleLow)
      ∧ t.eng.lineQ = t.wire.level
      ∧ (s.eng.fsm ∈ [Fsm.idle, .rxReq, .stopWait, .dead, .flushing] ∨ s.eng.dir = .input → t.wire.driveLow = false)

/-- In the reset state InitPak, InitDecoder, InitButtons and InitEngine wait, in this order. From Uninit with these
calls waiting, no flush in progress, ENG.line_q 0, a canonical flash, and a script that grants the line claim, calls
nothing else and does not assert rst: after one step, or T_FLUSH + 1 steps if the flash is blank, the engine is in
Idle with the line an input, the pak is ready, clean and equal to the flash, the decoder is initialised with the
phases on the pins and zero positions, and no call waits. -/
def Obligations.ReferenceStartUpReachesIdle : Prop :=
  State.reset.env.calls = [.initPak, .initDecoder, .initButtons, .initEngine]
  ∧ ∀ (s : State) (n : Nat), n = (if flashBlank s.flash = true then flushTimeNext s else 0) →
    s.eng.fsm = .uninit → s.eng.lineQ = false → s.hold.flushEnd ≤ s.time →
    s.env.calls = [.initPak, .initDecoder, .initButtons, .initEngine] →
    Memory.wf Config.flashFill s.flash = true → s.pins.lineClaimOk = true →
    (∀ u ∈ s.env.inputs.take (n + 1), u.rst = false ∧ u.calls = [] ∧ u.pins.lineClaimOk = true) →
    s.time + (n + 1) < Config.timeLimit →
    ∃ t : State, Host.Core.run Sys2Proof.core (n + 1) s = .next t ∧ t.time = s.time + (n + 1)
      ∧ t.eng.fsm = .idle ∧ t.eng.dir = .input ∧ t.pak.ready = true ∧ t.pak.dirty = false
      ∧ (∀ a, a < 32768 → t.flashByte a = t.pakByte a)
      ∧ t.qdInit = true ∧ (∀ a, (t.ax a).position = 0 ∧ (t.ax a).lastPhase = phase a t) ∧ t.env.calls = []
end

