-- ==== Sys2Proof/Laws/Memory.lean ====
section
/-! SUPPORT. The laws of memory: what a byte reads as after each memory operation, that every operation keeps the
canonical form, and that two canonical memories that read alike are equal. -/

namespace Sys2Proof.Machine

variable {fill dst : Byte} {top lo a b n i : Nat} {m m' : Memory} {v : Byte} {vs : List Byte}

/-! ### The canonical form -/

@[simp] theorem memWfFrom_nil : memWfFrom fill top lo [] = true := rfl

theorem memWfFrom_cons :
    memWfFrom fill top lo ((a, v) :: m) = true ↔ lo ≤ a ∧ a < top ∧ v ≠ fill ∧ memWfFrom fill top (a + 1) m = true := by
  simp [memWfFrom, and_assoc]

theorem memWfFrom_mono (h : memWfFrom fill top lo m = true) (hb : b ≤ lo) : memWfFrom fill top b m = true := by
  cases m with
  | nil => rfl
  | cons c m =>
    obtain ⟨a, v⟩ := c
    rw [memWfFrom_cons] at h ⊢
    exact ⟨by omega, h.2⟩

theorem memRead_below (h : memWfFrom fill top lo m = true) (hb : b < lo) : memRead fill m b = fill := by
  induction m generalizing lo with
  | nil => rfl
  | cons c m ih =>
    obtain ⟨a, v⟩ := c
    rw [memWfFrom_cons] at h
    rw [memRead, if_neg (by omega)]
    exact ih h.2.2.2 (by omega)

theorem memRead_above (h : memWfFrom fill top lo m = true) (hb : top ≤ b) : memRead fill m b = fill := by
  induction m generalizing lo with
  | nil => rfl
  | cons c m ih =>
    obtain ⟨a, v⟩ := c
    rw [memWfFrom_cons] at h
    rw [memRead, if_neg (by omega)]
    exact ih h.2.2.2

/-- Canonical memories that read alike are equal data. -/
theorem mem_ext (h : memWfFrom fill top lo m = true) (h' : memWfFrom fill top lo m' = true)
    (hr : ∀ b, memRead fill m b = memRead fill m' b) : m = m' := by
  induction m generalizing lo m' with
  | nil =>
    cases m' with
    | nil => rfl
    | cons c m' =>
      obtain ⟨a, v⟩ := c
      rw [memWfFrom_cons] at h'
      have := hr a
      simp only [memRead, if_true] at this
      exact absurd this.symm h'.2.2.1
  | cons c m ih =>
    obtain ⟨a, v⟩ := c
    rw [memWfFrom_cons] at h
    cases m' with
    | nil =>
      have := hr a
      simp only [memRead, if_true] at this
      exact absurd this h.2.2.1
    | cons c' m' =>
      obtain ⟨a', v'⟩ := c'
      rw [memWfFrom_cons] at h'
      have haa : a = a' := by
        rcases Nat.lt_trichotomy a a' with hlt | heq | hgt
        · have := hr a
          rw [memRead, if_pos rfl, memRead, if_neg (by omega), memRead_below h'.2.2.2 (by omega)] at this
          exact absurd this h.2.2.1
        · exact heq
        · have := hr a'
          rw [memRead, if_neg (by omega), memRead, if_pos rfl, memRead_below h.2.2.2 (by omega)] at this
          exact absurd this.symm h'.2.2.1
      subst haa
      have hv : v = v' := by
        have := hr a
        rwa [memRead, if_pos rfl, memRead, if_pos rfl] at this
      subst hv
      have hm : m = m' := by
        refine ih h.2.2.2 h'.2.2.2 fun b => ?_
        by_cases hb : b ≤ a
        · rw [memRead_below h.2.2.2 (by omega), memRead_below h'.2.2.2 (by omega)]
        · have := hr b
          rwa [memRead, if_neg (by omega), memRead, if_neg (by omega)] at this
      rw [hm]

/-! ### Laying and writing bytes -/

theorem memWf_memCells (h : a + vs.length ≤ top) : memWfFrom fill top a (memCells fill a vs) = true := by
  induction vs generalizing a with
  | nil => rfl
  | cons v vs ih =>
    simp only [List.length_cons] at h
    have := ih (a := a + 1) (by omega)
    rw [memCells]
    split
    · exact memWfFrom_mono this (by omega)
    · rw [memWfFrom_cons]
      exact ⟨le_refl a, by omega, ‹_›, this⟩

theorem memRead_memCells : memRead fill (memCells fill a vs) b
    = if a ≤ b ∧ b < a + vs.length then vs.getD (b - a) fill else fill := by
  induction vs generalizing a with
  | nil => simp [memCells, memRead]
  | cons v vs ih =>
    rw [memCells]
    rcases Nat.lt_trichotomy a b with hlt | heq | hgt
    · have e : b - a = b - (a + 1) + 1 := by omega
      have key : memRead fill (memCells fill (a + 1) vs) b
          = if a ≤ b ∧ b < a + (v :: vs).length then (v :: vs).getD (b - a) fill else fill := by
        rw [ih, e, List.getD_cons_succ]
        simp only [List.length_cons]
        by_cases hb : b < a + 1 + vs.length
        · rw [if_pos ⟨by omega, hb⟩, if_pos ⟨by omega, by omega⟩]
        · rw [if_neg (by omega), if_neg (by omega)]
      split
      · exact key
      · rw [memRead, if_neg (by omega)]; exact key
    · subst heq
      have e : (if a ≤ a ∧ a < a + (v :: vs).length then (v :: vs).getD (a - a) fill else fill) = v := by
        rw [if_pos ⟨le_refl a, by simp⟩]; simp
      rw [e]
      split
      · next hv => rw [ih, if_neg (by omega), hv]
      · rw [memRead, if_pos rfl]
    · have key : memRead fill (memCells fill (a + 1) vs) b = fill := by rw [ih, if_neg (by omega)]
      have e : (if a ≤ b ∧ b < a + (v :: vs).length then (v :: vs).getD (b - a) fill else fill) = fill :=
        if_neg (by omega)
      rw [e]
      split
      · exact key
      · rw [memRead, if_neg (by omega)]; exact key

theorem memRead_append_of_wf (h : memWfFrom fill b 0 m = true) :
    memRead fill (m ++ m') a = if a < b then (if memRead fill m a = fill then memRead fill m' a else memRead fill m a)
      else memRead fill m' a := by
  suffices H : ∀ lo, memWfFrom fill b lo m = true → memRead fill (m ++ m') a
      = if memRead fill m a = fill then memRead fill m' a else memRead fill m a by
    rw [H 0 h]
    by_cases hab : a < b
    · rw [if_pos hab]
    · rw [if_neg hab, memRead_above h (by omega), if_pos rfl]
  intro lo
  clear h
  induction m generalizing lo with
  | nil => intro _; simp [memRead]
  | cons c m ih =>
    obtain ⟨x, v⟩ := c
    intro h
    rw [memWfFrom_cons] at h
    rw [List.cons_append, memRead, memRead]
    by_cases hx : x = a
    · rw [if_pos hx, if_pos hx, if_neg h.2.2.1]
    · rw [if_neg hx, if_neg hx]; exact ih _ h.2.2.2

theorem memWfFrom_append (h : memWfFrom fill b lo m = true) (h' : memWfFrom fill top b m' = true) (hb : lo ≤ b)
    (ht : b ≤ top) : memWfFrom fill top lo (m ++ m') = true := by
  induction m generalizing lo with
  | nil => exact memWfFrom_mono h' hb
  | cons c m ih =>
    obtain ⟨x, v⟩ := c
    rw [memWfFrom_cons] at h
    rw [List.cons_append, memWfFrom_cons]
    exact ⟨h.1, by omega, h.2.2.1, ih h.2.2.2 (by omega)⟩

theorem memWfFrom_filter_lt (h : memWfFrom fill top lo m = true) :
    memWfFrom fill b lo (m.filter fun c => decide (c.1 < b)) = true := by
  induction m generalizing lo with
  | nil => rfl
  | cons c m ih =>
    obtain ⟨x, v⟩ := c
    rw [memWfFrom_cons] at h
    rw [List.filter_cons]
    by_cases hx : x < b
    · rw [if_pos (by simpa using hx), memWfFrom_cons]
      exact ⟨h.1, hx, h.2.2.1, ih h.2.2.2⟩
    · rw [if_neg (by simpa using hx)]
      exact memWfFrom_mono (ih h.2.2.2) (by omega)

theorem memWfFrom_filter_ge (h : memWfFrom fill top lo m = true) :
    memWfFrom fill top b (m.filter fun c => decide (b ≤ c.1)) = true := by
  suffices H : ∀ lo, memWfFrom fill top lo m = true → ∀ k, k ≤ max b lo →
      memWfFrom fill top k (m.filter fun c => decide (b ≤ c.1)) = true from H lo h b (by omega)
  clear h
  induction m with
  | nil => intros; rfl
  | cons c m ih =>
    obtain ⟨x, v⟩ := c
    intro lo h k hk
    rw [memWfFrom_cons] at h
    rw [List.filter_cons]
    by_cases hx : b ≤ x
    · rw [if_pos (by simpa using hx), memWfFrom_cons]
      exact ⟨by omega, h.2.1, h.2.2.1, ih _ h.2.2.2 _ (by omega)⟩
    · rw [if_neg (by simpa using hx)]
      exact ih _ h.2.2.2 _ (by omega)

theorem memRead_filter (p : Nat → Bool) :
    memRead fill (m.filter fun c => p c.1) a = if p a then memRead fill m a else fill := by
  induction m with
  | nil => simp [memRead]
  | cons c m ih =>
    obtain ⟨x, v⟩ := c
    rw [List.filter_cons]
    by_cases hx : x = a
    · subst hx
      by_cases hp : p x = true
      · simp [hp, memRead]
      · simp only [hp] at ih ⊢
        simpa using ih
    · by_cases hp : p x = true
      · simp only [hp, if_true, memRead, if_neg hx]; exact ih
      · simp only [hp, memRead, if_neg hx]; simpa using ih

/-- Read after write: the written bytes read as written, every other byte as before. -/
theorem memRead_memWrite (h : memWfFrom fill top 0 m = true) :
    memRead fill (memWrite fill m a vs) b = if a ≤ b ∧ b < a + vs.length then vs.getD (b - a) fill else memRead fill m b := by
  have h1 : memWfFrom fill a 0 (m.filter fun c => decide (c.1 < a)) = true := memWfFrom_filter_lt h
  have h2 : memWfFrom fill (a + vs.length) a (memCells fill a vs) = true := memWf_memCells (le_refl _)
  have h12 : memWfFrom fill (a + vs.length) 0 (m.filter (fun c => decide (c.1 < a)) ++ memCells fill a vs) = true :=
    memWfFrom_append h1 h2 (by omega) (by omega)
  have r1 : memRead fill (m.filter fun c => decide (c.1 < a)) b = if b < a then memRead fill m b else fill := by
    simpa using memRead_filter (fill := fill) (m := m) (a := b) fun k => decide (k < a)
  have r3 : memRead fill (m.filter fun c => decide (a + vs.length ≤ c.1)) b
      = if a + vs.length ≤ b then memRead fill m b else fill := by
    simpa using memRead_filter (fill := fill) (m := m) (a := b) fun k => decide (a + vs.length ≤ k)
  rw [memWrite, memRead_append_of_wf h12, memRead_append_of_wf h1, r1, r3, memRead_memCells]
  by_cases hb : b < a
  · simp only [if_pos hb, if_pos (show b < a + vs.length by omega), if_neg (show ¬ a + vs.length ≤ b by omega),
      if_neg (show ¬(a ≤ b ∧ b < a + vs.length) by omega)]
    by_cases hv : memRead fill m b = fill <;> simp [hv]
  · by_cases hc : b < a + vs.length
    · simp only [if_neg hb, if_pos hc, if_neg (show ¬ a + vs.length ≤ b by omega),
        if_pos (show a ≤ b ∧ b < a + vs.length by omega)]
      split
      · next hv => exact hv.symm
      · rfl
    · simp only [if_neg hc, if_neg (show ¬(a ≤ b ∧ b < a + vs.length) by omega),
        if_pos (show a + vs.length ≤ b by omega)]

/-- A write below `top` keeps the canonical form. -/
theorem memWf_memWrite (h : memWfFrom fill top 0 m = true) (ha : a + vs.length ≤ top) :
    memWfFrom fill top 0 (memWrite fill m a vs) = true :=
  memWfFrom_append
    (memWfFrom_append (memWfFrom_filter_lt h) (memWf_memCells (le_refl _)) (by omega) (by omega))
    (memWfFrom_filter_ge h) (by omega) ha

/-! ### Reading several bytes -/

@[simp] theorem memBytes_length : (memBytes fill m a n).length = n := by simp [memBytes]

theorem memBytes_getD (h : i < n) : (memBytes fill m a n).getD i v = memRead fill m (a + i) := by
  simp [memBytes, List.getD, h]

/-! ### Listing a memory anew for another unlisted byte -/

theorem memWf_memRecast : memWfFrom dst (i + n) i (memRecast fill dst n i m) = true := by
  induction n generalizing i m with
  | zero => rfl
  | succ n ih =>
    have up : ∀ m', memWfFrom dst (i + (n + 1)) (i + 1) (memRecast fill dst n (i + 1) m') = true := fun m' => by
      have := ih (i := i + 1) (m := m')
      rwa [show i + 1 + n = i + (n + 1) by omega] at this
    have cons : ∀ w m', w ≠ dst →
        memWfFrom dst (i + (n + 1)) i ((i, w) :: memRecast fill dst n (i + 1) m') = true := fun w m' hw => by
      rw [memWfFrom_cons]; exact ⟨le_refl i, by omega, hw, up m'⟩
    cases m with
    | nil =>
      rw [memRecast]
      split
      · exact memWfFrom_mono (up _) (by omega)
      · exact cons _ _ ‹_›
    | cons c m =>
      obtain ⟨x, v⟩ := c
      rw [memRecast]
      split
      · split
        · exact memWfFrom_mono (up _) (by omega)
        · exact cons _ _ ‹_›
      · split
        · exact memWfFrom_mono (up _) (by omega)
        · exact cons _ _ ‹_›

theorem memRead_memRecast (h : memWfFrom fill top i m = true) :
    memRead dst (memRecast fill dst n i m) b = if i ≤ b ∧ b < i + n then memRead fill m b else dst := by
  induction n generalizing i m with
  | zero => rw [memRecast, memRead, if_neg (by omega)]
  | succ n ih =>
    have one : ∀ (w : Byte) (m' : Memory), memWfFrom fill top (i + 1) m' = true →
        (∀ k, i < k → memRead fill m k = memRead fill m' k) → memRead fill m i = w →
        memRead dst (if w = dst then memRecast fill dst n (i + 1) m' else (i, w) :: memRecast fill dst n (i + 1) m') b
          = if i ≤ b ∧ b < i + (n + 1) then memRead fill m b else dst := by
      intro w m' hm' hk hw
      have rest := ih (i := i + 1) (m := m') hm'
      rcases Nat.lt_trichotomy b i with hlt | heq | hgt
      · rw [if_neg (show ¬(i ≤ b ∧ b < i + (n + 1)) by omega)]
        rw [if_neg (show ¬(i + 1 ≤ b ∧ b < i + 1 + n) by omega)] at rest
        split
        · exact rest
        · rw [memRead, if_neg (by omega)]; exact rest
      · subst heq
        rw [if_pos (show b ≤ b ∧ b < b + (n + 1) by omega), hw]
        rw [if_neg (show ¬(b + 1 ≤ b ∧ b < b + 1 + n) by omega)] at rest
        split
        · next hd => rw [rest, hd]
        · rw [memRead, if_pos rfl]
      · have : (if i + 1 ≤ b ∧ b < i + 1 + n then memRead fill m' b else dst)
            = if i ≤ b ∧ b < i + (n + 1) then memRead fill m b else dst := by
          rw [hk b hgt]
          by_cases hb : b < i + 1 + n
          · rw [if_pos ⟨by omega, hb⟩, if_pos ⟨by omega, by omega⟩]
          · rw [if_neg (by omega), if_neg (by omega)]
        rw [this] at rest
        split
        · exact rest
        · rw [memRead, if_neg (by omega)]; exact rest
    cases m with
    | nil => exact one fill [] rfl (fun _ _ => rfl) rfl
    | cons c m =>
      obtain ⟨x, v⟩ := c
      have hw := h
      rw [memWfFrom_cons] at hw
      rw [memRecast]
      by_cases hx : x = i
      · subst hx
        rw [if_pos rfl]
        exact one v m hw.2.2.2 (fun k hk => by rw [memRead, if_neg (by omega)]) (by rw [memRead, if_pos rfl])
      · rw [if_neg hx]
        have hw' : memWfFrom fill top (i + 1) ((x, v) :: m) = true := by
          rw [memWfFrom_cons]; exact ⟨by omega, hw.2⟩
        exact one fill ((x, v) :: m) hw' (fun _ _ => rfl) (memRead_below hw' (by omega))

end Sys2Proof.Machine
end

