-- ==== Sys2Proof/Laws/State.lean ====
section
/-! SUPPORT. One lemma per field per update of State, so that no proof unfolds a record update. -/

namespace Sys2Proof.Machine.State

variable (s : State)

@[simp] theorem withTime_time (v : Nat) : (s.withTime v).time = v := rfl
@[simp] theorem withTime_eng (v : Nat) : (s.withTime v).eng = s.eng := rfl
@[simp] theorem withTime_snap (v : Nat) : (s.withTime v).snap = s.snap := rfl
@[simp] theorem withTime_info (v : Nat) : (s.withTime v).info = s.info := rfl
@[simp] theorem withTime_axX (v : Nat) : (s.withTime v).axX = s.axX := rfl
@[simp] theorem withTime_axY (v : Nat) : (s.withTime v).axY = s.axY := rfl
@[simp] theorem withTime_qdInit (v : Nat) : (s.withTime v).qdInit = s.qdInit := rfl
@[simp] theorem withTime_btn (v : Nat) : (s.withTime v).btn = s.btn := rfl
@[simp] theorem withTime_smpNext (v : Nat) : (s.withTime v).smpNext = s.smpNext := rfl
@[simp] theorem withTime_pak (v : Nat) : (s.withTime v).pak = s.pak := rfl
@[simp] theorem withTime_flash (v : Nat) : (s.withTime v).flash = s.flash := rfl
@[simp] theorem withTime_hold (v : Nat) : (s.withTime v).hold = s.hold := rfl
@[simp] theorem withTime_par (v : Nat) : (s.withTime v).par = s.par := rfl
@[simp] theorem withTime_pins (v : Nat) : (s.withTime v).pins = s.pins := rfl
@[simp] theorem withTime_wire (v : Nat) : (s.withTime v).wire = s.wire := rfl
@[simp] theorem withTime_env (v : Nat) : (s.withTime v).env = s.env := rfl
@[simp] theorem withTime_ax (v : Nat) (a : AxisId) : (s.withTime v).ax a = s.ax a := by cases a <;> rfl
@[simp] theorem withTime_self : s.withTime s.time = s := rfl
@[simp] theorem withTime_withTime (v w : Nat) : (s.withTime v).withTime w = s.withTime w := rfl

@[simp] theorem withEng_time (v : Eng) : (s.withEng v).time = s.time := rfl
@[simp] theorem withEng_eng (v : Eng) : (s.withEng v).eng = v := rfl
@[simp] theorem withEng_snap (v : Eng) : (s.withEng v).snap = s.snap := rfl
@[simp] theorem withEng_info (v : Eng) : (s.withEng v).info = s.info := rfl
@[simp] theorem withEng_axX (v : Eng) : (s.withEng v).axX = s.axX := rfl
@[simp] theorem withEng_axY (v : Eng) : (s.withEng v).axY = s.axY := rfl
@[simp] theorem withEng_qdInit (v : Eng) : (s.withEng v).qdInit = s.qdInit := rfl
@[simp] theorem withEng_btn (v : Eng) : (s.withEng v).btn = s.btn := rfl
@[simp] theorem withEng_smpNext (v : Eng) : (s.withEng v).smpNext = s.smpNext := rfl
@[simp] theorem withEng_pak (v : Eng) : (s.withEng v).pak = s.pak := rfl
@[simp] theorem withEng_flash (v : Eng) : (s.withEng v).flash = s.flash := rfl
@[simp] theorem withEng_hold (v : Eng) : (s.withEng v).hold = s.hold := rfl
@[simp] theorem withEng_par (v : Eng) : (s.withEng v).par = s.par := rfl
@[simp] theorem withEng_pins (v : Eng) : (s.withEng v).pins = s.pins := rfl
@[simp] theorem withEng_wire (v : Eng) : (s.withEng v).wire = s.wire := rfl
@[simp] theorem withEng_env (v : Eng) : (s.withEng v).env = s.env := rfl
@[simp] theorem withEng_ax (v : Eng) (a : AxisId) : (s.withEng v).ax a = s.ax a := by cases a <;> rfl
@[simp] theorem withEng_self : s.withEng s.eng = s := rfl
@[simp] theorem withEng_withEng (v w : Eng) : (s.withEng v).withEng w = s.withEng w := rfl

@[simp] theorem withSnap_time (v : Snapshot) : (s.withSnap v).time = s.time := rfl
@[simp] theorem withSnap_eng (v : Snapshot) : (s.withSnap v).eng = s.eng := rfl
@[simp] theorem withSnap_snap (v : Snapshot) : (s.withSnap v).snap = v := rfl
@[simp] theorem withSnap_info (v : Snapshot) : (s.withSnap v).info = s.info := rfl
@[simp] theorem withSnap_axX (v : Snapshot) : (s.withSnap v).axX = s.axX := rfl
@[simp] theorem withSnap_axY (v : Snapshot) : (s.withSnap v).axY = s.axY := rfl
@[simp] theorem withSnap_qdInit (v : Snapshot) : (s.withSnap v).qdInit = s.qdInit := rfl
@[simp] theorem withSnap_btn (v : Snapshot) : (s.withSnap v).btn = s.btn := rfl
@[simp] theorem withSnap_smpNext (v : Snapshot) : (s.withSnap v).smpNext = s.smpNext := rfl
@[simp] theorem withSnap_pak (v : Snapshot) : (s.withSnap v).pak = s.pak := rfl
@[simp] theorem withSnap_flash (v : Snapshot) : (s.withSnap v).flash = s.flash := rfl
@[simp] theorem withSnap_hold (v : Snapshot) : (s.withSnap v).hold = s.hold := rfl
@[simp] theorem withSnap_par (v : Snapshot) : (s.withSnap v).par = s.par := rfl
@[simp] theorem withSnap_pins (v : Snapshot) : (s.withSnap v).pins = s.pins := rfl
@[simp] theorem withSnap_wire (v : Snapshot) : (s.withSnap v).wire = s.wire := rfl
@[simp] theorem withSnap_env (v : Snapshot) : (s.withSnap v).env = s.env := rfl
@[simp] theorem withSnap_ax (v : Snapshot) (a : AxisId) : (s.withSnap v).ax a = s.ax a := by cases a <;> rfl
@[simp] theorem withSnap_self : s.withSnap s.snap = s := rfl
@[simp] theorem withSnap_withSnap (v w : Snapshot) : (s.withSnap v).withSnap w = s.withSnap w := rfl

@[simp] theorem withInfo_time (v : Info) : (s.withInfo v).time = s.time := rfl
@[simp] theorem withInfo_eng (v : Info) : (s.withInfo v).eng = s.eng := rfl
@[simp] theorem withInfo_snap (v : Info) : (s.withInfo v).snap = s.snap := rfl
@[simp] theorem withInfo_info (v : Info) : (s.withInfo v).info = v := rfl
@[simp] theorem withInfo_axX (v : Info) : (s.withInfo v).axX = s.axX := rfl
@[simp] theorem withInfo_axY (v : Info) : (s.withInfo v).axY = s.axY := rfl
@[simp] theorem withInfo_qdInit (v : Info) : (s.withInfo v).qdInit = s.qdInit := rfl
@[simp] theorem withInfo_btn (v : Info) : (s.withInfo v).btn = s.btn := rfl
@[simp] theorem withInfo_smpNext (v : Info) : (s.withInfo v).smpNext = s.smpNext := rfl
@[simp] theorem withInfo_pak (v : Info) : (s.withInfo v).pak = s.pak := rfl
@[simp] theorem withInfo_flash (v : Info) : (s.withInfo v).flash = s.flash := rfl
@[simp] theorem withInfo_hold (v : Info) : (s.withInfo v).hold = s.hold := rfl
@[simp] theorem withInfo_par (v : Info) : (s.withInfo v).par = s.par := rfl
@[simp] theorem withInfo_pins (v : Info) : (s.withInfo v).pins = s.pins := rfl
@[simp] theorem withInfo_wire (v : Info) : (s.withInfo v).wire = s.wire := rfl
@[simp] theorem withInfo_env (v : Info) : (s.withInfo v).env = s.env := rfl
@[simp] theorem withInfo_ax (v : Info) (a : AxisId) : (s.withInfo v).ax a = s.ax a := by cases a <;> rfl
@[simp] theorem withInfo_self : s.withInfo s.info = s := rfl
@[simp] theorem withInfo_withInfo (v w : Info) : (s.withInfo v).withInfo w = s.withInfo w := rfl

@[simp] theorem withQd_time (v : Bool) : (s.withQd v).time = s.time := rfl
@[simp] theorem withQd_eng (v : Bool) : (s.withQd v).eng = s.eng := rfl
@[simp] theorem withQd_snap (v : Bool) : (s.withQd v).snap = s.snap := rfl
@[simp] theorem withQd_info (v : Bool) : (s.withQd v).info = s.info := rfl
@[simp] theorem withQd_axX (v : Bool) : (s.withQd v).axX = s.axX := rfl
@[simp] theorem withQd_axY (v : Bool) : (s.withQd v).axY = s.axY := rfl
@[simp] theorem withQd_qdInit (v : Bool) : (s.withQd v).qdInit = v := rfl
@[simp] theorem withQd_btn (v : Bool) : (s.withQd v).btn = s.btn := rfl
@[simp] theorem withQd_smpNext (v : Bool) : (s.withQd v).smpNext = s.smpNext := rfl
@[simp] theorem withQd_pak (v : Bool) : (s.withQd v).pak = s.pak := rfl
@[simp] theorem withQd_flash (v : Bool) : (s.withQd v).flash = s.flash := rfl
@[simp] theorem withQd_hold (v : Bool) : (s.withQd v).hold = s.hold := rfl
@[simp] theorem withQd_par (v : Bool) : (s.withQd v).par = s.par := rfl
@[simp] theorem withQd_pins (v : Bool) : (s.withQd v).pins = s.pins := rfl
@[simp] theorem withQd_wire (v : Bool) : (s.withQd v).wire = s.wire := rfl
@[simp] theorem withQd_env (v : Bool) : (s.withQd v).env = s.env := rfl
@[simp] theorem withQd_ax (v : Bool) (a : AxisId) : (s.withQd v).ax a = s.ax a := by cases a <;> rfl
@[simp] theorem withQd_self : s.withQd s.qdInit = s := rfl
@[simp] theorem withQd_withQd (v w : Bool) : (s.withQd v).withQd w = s.withQd w := rfl

@[simp] theorem withBtn_time (v : Btn) : (s.withBtn v).time = s.time := rfl
@[simp] theorem withBtn_eng (v : Btn) : (s.withBtn v).eng = s.eng := rfl
@[simp] theorem withBtn_snap (v : Btn) : (s.withBtn v).snap = s.snap := rfl
@[simp] theorem withBtn_info (v : Btn) : (s.withBtn v).info = s.info := rfl
@[simp] theorem withBtn_axX (v : Btn) : (s.withBtn v).axX = s.axX := rfl
@[simp] theorem withBtn_axY (v : Btn) : (s.withBtn v).axY = s.axY := rfl
@[simp] theorem withBtn_qdInit (v : Btn) : (s.withBtn v).qdInit = s.qdInit := rfl
@[simp] theorem withBtn_btn (v : Btn) : (s.withBtn v).btn = v := rfl
@[simp] theorem withBtn_smpNext (v : Btn) : (s.withBtn v).smpNext = s.smpNext := rfl
@[simp] theorem withBtn_pak (v : Btn) : (s.withBtn v).pak = s.pak := rfl
@[simp] theorem withBtn_flash (v : Btn) : (s.withBtn v).flash = s.flash := rfl
@[simp] theorem withBtn_hold (v : Btn) : (s.withBtn v).hold = s.hold := rfl
@[simp] theorem withBtn_par (v : Btn) : (s.withBtn v).par = s.par := rfl
@[simp] theorem withBtn_pins (v : Btn) : (s.withBtn v).pins = s.pins := rfl
@[simp] theorem withBtn_wire (v : Btn) : (s.withBtn v).wire = s.wire := rfl
@[simp] theorem withBtn_env (v : Btn) : (s.withBtn v).env = s.env := rfl
@[simp] theorem withBtn_ax (v : Btn) (a : AxisId) : (s.withBtn v).ax a = s.ax a := by cases a <;> rfl
@[simp] theorem withBtn_self : s.withBtn s.btn = s := rfl
@[simp] theorem withBtn_withBtn (v w : Btn) : (s.withBtn v).withBtn w = s.withBtn w := rfl

@[simp] theorem withSmp_time (v : Nat) : (s.withSmp v).time = s.time := rfl
@[simp] theorem withSmp_eng (v : Nat) : (s.withSmp v).eng = s.eng := rfl
@[simp] theorem withSmp_snap (v : Nat) : (s.withSmp v).snap = s.snap := rfl
@[simp] theorem withSmp_info (v : Nat) : (s.withSmp v).info = s.info := rfl
@[simp] theorem withSmp_axX (v : Nat) : (s.withSmp v).axX = s.axX := rfl
@[simp] theorem withSmp_axY (v : Nat) : (s.withSmp v).axY = s.axY := rfl
@[simp] theorem withSmp_qdInit (v : Nat) : (s.withSmp v).qdInit = s.qdInit := rfl
@[simp] theorem withSmp_btn (v : Nat) : (s.withSmp v).btn = s.btn := rfl
@[simp] theorem withSmp_smpNext (v : Nat) : (s.withSmp v).smpNext = v := rfl
@[simp] theorem withSmp_pak (v : Nat) : (s.withSmp v).pak = s.pak := rfl
@[simp] theorem withSmp_flash (v : Nat) : (s.withSmp v).flash = s.flash := rfl
@[simp] theorem withSmp_hold (v : Nat) : (s.withSmp v).hold = s.hold := rfl
@[simp] theorem withSmp_par (v : Nat) : (s.withSmp v).par = s.par := rfl
@[simp] theorem withSmp_pins (v : Nat) : (s.withSmp v).pins = s.pins := rfl
@[simp] theorem withSmp_wire (v : Nat) : (s.withSmp v).wire = s.wire := rfl
@[simp] theorem withSmp_env (v : Nat) : (s.withSmp v).env = s.env := rfl
@[simp] theorem withSmp_ax (v : Nat) (a : AxisId) : (s.withSmp v).ax a = s.ax a := by cases a <;> rfl
@[simp] theorem withSmp_self : s.withSmp s.smpNext = s := rfl
@[simp] theorem withSmp_withSmp (v w : Nat) : (s.withSmp v).withSmp w = s.withSmp w := rfl

@[simp] theorem withPak_time (v : Pak) : (s.withPak v).time = s.time := rfl
@[simp] theorem withPak_eng (v : Pak) : (s.withPak v).eng = s.eng := rfl
@[simp] theorem withPak_snap (v : Pak) : (s.withPak v).snap = s.snap := rfl
@[simp] theorem withPak_info (v : Pak) : (s.withPak v).info = s.info := rfl
@[simp] theorem withPak_axX (v : Pak) : (s.withPak v).axX = s.axX := rfl
@[simp] theorem withPak_axY (v : Pak) : (s.withPak v).axY = s.axY := rfl
@[simp] theorem withPak_qdInit (v : Pak) : (s.withPak v).qdInit = s.qdInit := rfl
@[simp] theorem withPak_btn (v : Pak) : (s.withPak v).btn = s.btn := rfl
@[simp] theorem withPak_smpNext (v : Pak) : (s.withPak v).smpNext = s.smpNext := rfl
@[simp] theorem withPak_pak (v : Pak) : (s.withPak v).pak = v := rfl
@[simp] theorem withPak_flash (v : Pak) : (s.withPak v).flash = s.flash := rfl
@[simp] theorem withPak_hold (v : Pak) : (s.withPak v).hold = s.hold := rfl
@[simp] theorem withPak_par (v : Pak) : (s.withPak v).par = s.par := rfl
@[simp] theorem withPak_pins (v : Pak) : (s.withPak v).pins = s.pins := rfl
@[simp] theorem withPak_wire (v : Pak) : (s.withPak v).wire = s.wire := rfl
@[simp] theorem withPak_env (v : Pak) : (s.withPak v).env = s.env := rfl
@[simp] theorem withPak_ax (v : Pak) (a : AxisId) : (s.withPak v).ax a = s.ax a := by cases a <;> rfl
@[simp] theorem withPak_self : s.withPak s.pak = s := rfl
@[simp] theorem withPak_withPak (v w : Pak) : (s.withPak v).withPak w = s.withPak w := rfl

@[simp] theorem withFlash_time (v : Memory) : (s.withFlash v).time = s.time := rfl
@[simp] theorem withFlash_eng (v : Memory) : (s.withFlash v).eng = s.eng := rfl
@[simp] theorem withFlash_snap (v : Memory) : (s.withFlash v).snap = s.snap := rfl
@[simp] theorem withFlash_info (v : Memory) : (s.withFlash v).info = s.info := rfl
@[simp] theorem withFlash_axX (v : Memory) : (s.withFlash v).axX = s.axX := rfl
@[simp] theorem withFlash_axY (v : Memory) : (s.withFlash v).axY = s.axY := rfl
@[simp] theorem withFlash_qdInit (v : Memory) : (s.withFlash v).qdInit = s.qdInit := rfl
@[simp] theorem withFlash_btn (v : Memory) : (s.withFlash v).btn = s.btn := rfl
@[simp] theorem withFlash_smpNext (v : Memory) : (s.withFlash v).smpNext = s.smpNext := rfl
@[simp] theorem withFlash_pak (v : Memory) : (s.withFlash v).pak = s.pak := rfl
@[simp] theorem withFlash_flash (v : Memory) : (s.withFlash v).flash = v := rfl
@[simp] theorem withFlash_hold (v : Memory) : (s.withFlash v).hold = s.hold := rfl
@[simp] theorem withFlash_par (v : Memory) : (s.withFlash v).par = s.par := rfl
@[simp] theorem withFlash_pins (v : Memory) : (s.withFlash v).pins = s.pins := rfl
@[simp] theorem withFlash_wire (v : Memory) : (s.withFlash v).wire = s.wire := rfl
@[simp] theorem withFlash_env (v : Memory) : (s.withFlash v).env = s.env := rfl
@[simp] theorem withFlash_ax (v : Memory) (a : AxisId) : (s.withFlash v).ax a = s.ax a := by cases a <;> rfl
@[simp] theorem withFlash_self : s.withFlash s.flash = s := rfl
@[simp] theorem withFlash_withFlash (v w : Memory) : (s.withFlash v).withFlash w = s.withFlash w := rfl

@[simp] theorem withHold_time (v : Hold) : (s.withHold v).time = s.time := rfl
@[simp] theorem withHold_eng (v : Hold) : (s.withHold v).eng = s.eng := rfl
@[simp] theorem withHold_snap (v : Hold) : (s.withHold v).snap = s.snap := rfl
@[simp] theorem withHold_info (v : Hold) : (s.withHold v).info = s.info := rfl
@[simp] theorem withHold_axX (v : Hold) : (s.withHold v).axX = s.axX := rfl
@[simp] theorem withHold_axY (v : Hold) : (s.withHold v).axY = s.axY := rfl
@[simp] theorem withHold_qdInit (v : Hold) : (s.withHold v).qdInit = s.qdInit := rfl
@[simp] theorem withHold_btn (v : Hold) : (s.withHold v).btn = s.btn := rfl
@[simp] theorem withHold_smpNext (v : Hold) : (s.withHold v).smpNext = s.smpNext := rfl
@[simp] theorem withHold_pak (v : Hold) : (s.withHold v).pak = s.pak := rfl
@[simp] theorem withHold_flash (v : Hold) : (s.withHold v).flash = s.flash := rfl
@[simp] theorem withHold_hold (v : Hold) : (s.withHold v).hold = v := rfl
@[simp] theorem withHold_par (v : Hold) : (s.withHold v).par = s.par := rfl
@[simp] theorem withHold_pins (v : Hold) : (s.withHold v).pins = s.pins := rfl
@[simp] theorem withHold_wire (v : Hold) : (s.withHold v).wire = s.wire := rfl
@[simp] theorem withHold_env (v : Hold) : (s.withHold v).env = s.env := rfl
@[simp] theorem withHold_ax (v : Hold) (a : AxisId) : (s.withHold v).ax a = s.ax a := by cases a <;> rfl
@[simp] theorem withHold_self : s.withHold s.hold = s := rfl
@[simp] theorem withHold_withHold (v w : Hold) : (s.withHold v).withHold w = s.withHold w := rfl

@[simp] theorem withPins_time (v : Pins) : (s.withPins v).time = s.time := rfl
@[simp] theorem withPins_eng (v : Pins) : (s.withPins v).eng = s.eng := rfl
@[simp] theorem withPins_snap (v : Pins) : (s.withPins v).snap = s.snap := rfl
@[simp] theorem withPins_info (v : Pins) : (s.withPins v).info = s.info := rfl
@[simp] theorem withPins_axX (v : Pins) : (s.withPins v).axX = s.axX := rfl
@[simp] theorem withPins_axY (v : Pins) : (s.withPins v).axY = s.axY := rfl
@[simp] theorem withPins_qdInit (v : Pins) : (s.withPins v).qdInit = s.qdInit := rfl
@[simp] theorem withPins_btn (v : Pins) : (s.withPins v).btn = s.btn := rfl
@[simp] theorem withPins_smpNext (v : Pins) : (s.withPins v).smpNext = s.smpNext := rfl
@[simp] theorem withPins_pak (v : Pins) : (s.withPins v).pak = s.pak := rfl
@[simp] theorem withPins_flash (v : Pins) : (s.withPins v).flash = s.flash := rfl
@[simp] theorem withPins_hold (v : Pins) : (s.withPins v).hold = s.hold := rfl
@[simp] theorem withPins_par (v : Pins) : (s.withPins v).par = s.par := rfl
@[simp] theorem withPins_pins (v : Pins) : (s.withPins v).pins = v := rfl
@[simp] theorem withPins_wire (v : Pins) : (s.withPins v).wire = s.wire := rfl
@[simp] theorem withPins_env (v : Pins) : (s.withPins v).env = s.env := rfl
@[simp] theorem withPins_ax (v : Pins) (a : AxisId) : (s.withPins v).ax a = s.ax a := by cases a <;> rfl
@[simp] theorem withPins_self : s.withPins s.pins = s := rfl
@[simp] theorem withPins_withPins (v w : Pins) : (s.withPins v).withPins w = s.withPins w := rfl

@[simp] theorem withWire_time (v : Wire) : (s.withWire v).time = s.time := rfl
@[simp] theorem withWire_eng (v : Wire) : (s.withWire v).eng = s.eng := rfl
@[simp] theorem withWire_snap (v : Wire) : (s.withWire v).snap = s.snap := rfl
@[simp] theorem withWire_info (v : Wire) : (s.withWire v).info = s.info := rfl
@[simp] theorem withWire_axX (v : Wire) : (s.withWire v).axX = s.axX := rfl
@[simp] theorem withWire_axY (v : Wire) : (s.withWire v).axY = s.axY := rfl
@[simp] theorem withWire_qdInit (v : Wire) : (s.withWire v).qdInit = s.qdInit := rfl
@[simp] theorem withWire_btn (v : Wire) : (s.withWire v).btn = s.btn := rfl
@[simp] theorem withWire_smpNext (v : Wire) : (s.withWire v).smpNext = s.smpNext := rfl
@[simp] theorem withWire_pak (v : Wire) : (s.withWire v).pak = s.pak := rfl
@[simp] theorem withWire_flash (v : Wire) : (s.withWire v).flash = s.flash := rfl
@[simp] theorem withWire_hold (v : Wire) : (s.withWire v).hold = s.hold := rfl
@[simp] theorem withWire_par (v : Wire) : (s.withWire v).par = s.par := rfl
@[simp] theorem withWire_pins (v : Wire) : (s.withWire v).pins = s.pins := rfl
@[simp] theorem withWire_wire (v : Wire) : (s.withWire v).wire = v := rfl
@[simp] theorem withWire_env (v : Wire) : (s.withWire v).env = s.env := rfl
@[simp] theorem withWire_ax (v : Wire) (a : AxisId) : (s.withWire v).ax a = s.ax a := by cases a <;> rfl
@[simp] theorem withWire_self : s.withWire s.wire = s := rfl
@[simp] theorem withWire_withWire (v w : Wire) : (s.withWire v).withWire w = s.withWire w := rfl

@[simp] theorem withEnv_time (v : Env) : (s.withEnv v).time = s.time := rfl
@[simp] theorem withEnv_eng (v : Env) : (s.withEnv v).eng = s.eng := rfl
@[simp] theorem withEnv_snap (v : Env) : (s.withEnv v).snap = s.snap := rfl
@[simp] theorem withEnv_info (v : Env) : (s.withEnv v).info = s.info := rfl
@[simp] theorem withEnv_axX (v : Env) : (s.withEnv v).axX = s.axX := rfl
@[simp] theorem withEnv_axY (v : Env) : (s.withEnv v).axY = s.axY := rfl
@[simp] theorem withEnv_qdInit (v : Env) : (s.withEnv v).qdInit = s.qdInit := rfl
@[simp] theorem withEnv_btn (v : Env) : (s.withEnv v).btn = s.btn := rfl
@[simp] theorem withEnv_smpNext (v : Env) : (s.withEnv v).smpNext = s.smpNext := rfl
@[simp] theorem withEnv_pak (v : Env) : (s.withEnv v).pak = s.pak := rfl
@[simp] theorem withEnv_flash (v : Env) : (s.withEnv v).flash = s.flash := rfl
@[simp] theorem withEnv_hold (v : Env) : (s.withEnv v).hold = s.hold := rfl
@[simp] theorem withEnv_par (v : Env) : (s.withEnv v).par = s.par := rfl
@[simp] theorem withEnv_pins (v : Env) : (s.withEnv v).pins = s.pins := rfl
@[simp] theorem withEnv_wire (v : Env) : (s.withEnv v).wire = s.wire := rfl
@[simp] theorem withEnv_env (v : Env) : (s.withEnv v).env = v := rfl
@[simp] theorem withEnv_ax (v : Env) (a : AxisId) : (s.withEnv v).ax a = s.ax a := by cases a <;> rfl
@[simp] theorem withEnv_self : s.withEnv s.env = s := rfl
@[simp] theorem withEnv_withEnv (v w : Env) : (s.withEnv v).withEnv w = s.withEnv w := rfl

@[simp] theorem withAx_time (a : AxisId) (v : Axis) : (s.withAx a v).time = s.time := by cases a <;> rfl
@[simp] theorem withAx_eng (a : AxisId) (v : Axis) : (s.withAx a v).eng = s.eng := by cases a <;> rfl
@[simp] theorem withAx_snap (a : AxisId) (v : Axis) : (s.withAx a v).snap = s.snap := by cases a <;> rfl
@[simp] theorem withAx_info (a : AxisId) (v : Axis) : (s.withAx a v).info = s.info := by cases a <;> rfl
@[simp] theorem withAx_qdInit (a : AxisId) (v : Axis) : (s.withAx a v).qdInit = s.qdInit := by cases a <;> rfl
@[simp] theorem withAx_btn (a : AxisId) (v : Axis) : (s.withAx a v).btn = s.btn := by cases a <;> rfl
@[simp] theorem withAx_smpNext (a : AxisId) (v : Axis) : (s.withAx a v).smpNext = s.smpNext := by cases a <;> rfl
@[simp] theorem withAx_pak (a : AxisId) (v : Axis) : (s.withAx a v).pak = s.pak := by cases a <;> rfl
@[simp] theorem withAx_flash (a : AxisId) (v : Axis) : (s.withAx a v).flash = s.flash := by cases a <;> rfl
@[simp] theorem withAx_hold (a : AxisId) (v : Axis) : (s.withAx a v).hold = s.hold := by cases a <;> rfl
@[simp] theorem withAx_par (a : AxisId) (v : Axis) : (s.withAx a v).par = s.par := by cases a <;> rfl
@[simp] theorem withAx_pins (a : AxisId) (v : Axis) : (s.withAx a v).pins = s.pins := by cases a <;> rfl
@[simp] theorem withAx_wire (a : AxisId) (v : Axis) : (s.withAx a v).wire = s.wire := by cases a <;> rfl
@[simp] theorem withAx_env (a : AxisId) (v : Axis) : (s.withAx a v).env = s.env := by cases a <;> rfl
@[simp] theorem withAx_ax (a : AxisId) (v : Axis) : (s.withAx a v).ax a = v := by cases a <;> rfl
theorem withAx_ax_ne (a b : AxisId) (v : Axis) (h : b ≠ a) : (s.withAx a v).ax b = s.ax b := by
  cases a <;> cases b <;> first | rfl | exact absurd rfl h
@[simp] theorem withAx_x_axX (v : Axis) : (s.withAx .x v).axX = v := rfl
@[simp] theorem withAx_x_axY (v : Axis) : (s.withAx .x v).axY = s.axY := rfl
@[simp] theorem withAx_y_axX (v : Axis) : (s.withAx .y v).axX = s.axX := rfl
@[simp] theorem withAx_y_axY (v : Axis) : (s.withAx .y v).axY = v := rfl
@[simp] theorem ax_x : s.ax .x = s.axX := rfl
@[simp] theorem ax_y : s.ax .y = s.axY := rfl

end Sys2Proof.Machine.State
end

