-- ==== Sys2Proof/Laws/Ops.lean ====
section
/-! SUPPORT. What each shared operation does, said once: the sequencing of results, the reply buffer, the exception, the
store, the debouncer, the host operations. -/

namespace Sys2Proof.Machine

variable {s t : State}

/-! ### Results -/

@[simp] theorem andThen_next (f : State → Result) : andThen (.next s) f = f s := rfl
@[simp] theorem andThen_fault (e : Fault) (f : State → Result) : andThen (.fault e) f = .fault e := rfl
@[simp] theorem andThen_refused (e : Refusal) (f : State → Result) : andThen (.refused e) f = .refused e := rfl

theorem andThen_eq_next {r : Result} {f : State → Result} : andThen r f = .next t ↔ ∃ u, r = .next u ∧ f u = .next t := by
  cases r <;> simp

/-! ### The reply buffer -/

theorem setReply_eq (bytes : List Byte) : setReply bytes s
    = s.withEng { s.eng with reply := bytes ++ s.eng.reply.drop bytes.length, nreply := bytes.length } := rfl

theorem setReply_reply_length {bytes : List Byte} (hr : s.eng.reply.length = Config.replySize)
    (hb : bytes.length ≤ Config.replySize) : (setReply bytes s).eng.reply.length = Config.replySize := by
  simp only [setReply, State.withEng_eng, List.length_append, List.length_drop]
  omega

theorem setReply_bytes (bytes : List Byte) :
    (setReply bytes s).eng.reply.take (setReply bytes s).eng.nreply = bytes := by
  simp [setReply]

/-! ### ChecksumError -/

theorem setCrcError_and_three (b : Byte) : setCrcError b &&& 3 = b &&& 3 := by
  revert b; decide

theorem setCrcError_shift (b : Byte) : setCrcError b >>> 3 = b >>> 3 := by
  revert b; decide

theorem setCrcError_bit (b : Byte) : (setCrcError b).getLsbD 2 = true := by
  revert b; decide

theorem clearCrcError_and_three (b : Byte) : clearCrcError b &&& 3 = b &&& 3 := by
  revert b; decide

theorem clearCrcError_shift (b : Byte) (h : b >>> 3 = 0) : clearCrcError b >>> 3 = 0 := by
  revert b; decide

theorem clearCrcError_bit (b : Byte) : (clearCrcError b).getLsbD 2 = false := by
  revert b; decide

/-! ### The pak store -/

/-- What `Flush()` leaves. -/
theorem flush_eq : flush s =
    { s with
      flash := pakToFlash s.pak.buf
      pak := { s.pak with dirty := false, lastFlush := s.time }
      hold := { flushEnd := s.time + flushTimeNext s, draws := s.hold.draws + 1, times := s.hold.times.tail } } := rfl

/-- What `MemWrite` can do: nothing where the store is not accessible, else the commit, flushed or not. -/
theorem pakWrite_cases (addr len : Nat) (data : List Byte) :
    (pakAccessible addr s = false ∧ pakWrite addr len data s = s)
    ∨ (pakAccessible addr s = true ∧ coalesceDue s = false ∧ pakWrite addr len data s = pakCommit addr len data s)
    ∨ (pakAccessible addr s = true ∧ coalesceDue s = true
        ∧ pakWrite addr len data s = flush (pakCommit addr len data s)) := by
  unfold pakWrite
  cases h : pakAccessible addr s <;> cases h' : coalesceDue s <;> simp

/-- `Flush()` touches the pak, the flash and the flush record only. -/
theorem flush_frame : flush s = { s with pak := (flush s).pak, flash := (flush s).flash, hold := (flush s).hold } := rfl

/-- `MemWrite` touches the pak, the flash and the flush record only. -/
theorem pakWrite_frame (addr len : Nat) (data : List Byte) :
    pakWrite addr len data s = { s with
      pak := (pakWrite addr len data s).pak
      flash := (pakWrite addr len data s).flash
      hold := (pakWrite addr len data s).hold } := by
  obtain ⟨-, h⟩ | ⟨-, -, h⟩ | ⟨-, -, h⟩ := pakWrite_cases (s := s) addr len data <;> rw [h]
  · rfl
  · have h := flush_frame (s := pakCommit addr len data s)
    generalize flush (pakCommit addr len data s) = w at h ⊢
    rw [h]
    rfl

theorem pakRead_length (addr len : Nat) : (pakRead addr len s).length = len := by
  unfold pakRead
  split <;> simp

theorem pakToFlash_wf (buf : Memory) : Memory.wf Config.flashFill (pakToFlash buf) = true := by
  simpa [Memory.wf, pakToFlash] using memWf_memRecast (i := 0) (n := Config.pakSize) (fill := Config.pakFill) (m := buf)

theorem flashToPak_wf (m : Memory) : Memory.wf Config.pakFill (flashToPak m) = true := by
  simpa [Memory.wf, flashToPak] using memWf_memRecast (i := 0) (n := Config.pakSize) (fill := Config.flashFill) (m := m)

theorem pakToFlash_read {buf : Memory} (h : Memory.wf Config.pakFill buf = true) {i : Nat} (hi : i < Config.pakSize) :
    memRead Config.flashFill (pakToFlash buf) i = memRead Config.pakFill buf i := by
  rw [pakToFlash, memRead_memRecast (top := Config.pakSize) h, if_pos ⟨by omega, by omega⟩]

theorem flashToPak_read {m : Memory} (h : Memory.wf Config.flashFill m = true) {i : Nat} (hi : i < Config.pakSize) :
    memRead Config.pakFill (flashToPak m) i = memRead Config.flashFill m i := by
  rw [flashToPak, memRead_memRecast (top := Config.pakSize) h, if_pos ⟨by omega, by omega⟩]

@[simp] theorem flushTimeNext_withPak (v : Pak) : flushTimeNext (s.withPak v) = flushTimeNext s := rfl

/-- What `format()` leaves. -/
theorem format_eq : format s =
    ((s.withFlash (pakToFlash formattedPak)).withPak
      { s.pak with buf := formattedPak, dirty := false, lastFlush := s.time }).withHold
      { flushEnd := s.time + flushTimeNext s, draws := s.hold.draws + 1, times := s.hold.times.tail } := by
  rw [format, flush]
  simp only [State.withPak_pak, State.withPak_time, State.withPak_hold, flushTimeNext_withPak]
  rfl

/-- What `InitPak` leaves: the formatted pak where the flash was blank, else the copy of the flash; ready. -/
theorem initPakBody_cases :
    (flashBlank s.flash = true ∧ initPakBody s =
      ((s.withFlash (pakToFlash formattedPak)).withPak
        { buf := formattedPak, dirty := false, lastFlush := s.time, ready := true }).withHold
        { flushEnd := s.time + flushTimeNext s, draws := s.hold.draws + 1, times := s.hold.times.tail })
    ∨ (flashBlank s.flash = false ∧ initPakBody s =
      s.withPak { buf := flashToPak s.flash, dirty := false, lastFlush := s.pak.lastFlush, ready := true }) := by
  cases h : flashBlank s.flash
  · refine Or.inr ⟨rfl, ?_⟩
    simp only [initPakBody, hydrate, State.withPak_flash, h, Bool.false_eq_true, if_false, State.withPak_pak,
      State.withPak_withPak]
  · refine Or.inl ⟨rfl, ?_⟩
    simp only [initPakBody, hydrate, State.withPak_flash, h, if_true, format_eq, State.withPak_pak, State.withPak_time,
      State.withPak_hold, flushTimeNext_withPak, State.withHold_pak]
    rfl

/-! ### The commands -/

/-- Every command answers a next state. -/
theorem exec_next (i : Instr) (s : State) : ∃ t, exec i s = .next t := by
  cases i with
  | info => exact ⟨_, rfl⟩
  | poll => exact ⟨_, rfl⟩
  | read aw => rw [exec, execRead]; split <;> exact ⟨_, rfl⟩
  | write aw data => exact ⟨_, (rfl : execWrite aw data s = _)⟩
  | reset => exact ⟨_, rfl⟩
  | unknown cmd => exact ⟨_, rfl⟩

/-- What a command changes of the state outside the store: the reply buffer and `INFO.status`; and of the store, nothing
unless it is WRITE. -/
structure CommandFrame (s t : State) : Prop where
  eng : t.eng = { s.eng with reply := t.eng.reply, nreply := t.eng.nreply }
  rest : t = { s with eng := t.eng, info := t.info, pak := t.pak, flash := t.flash, hold := t.hold }

/-- The store side of WRITE touches the status, the pak, the flash and the flush record only. -/
theorem writeCommit_frame (aw : Half) (data : List Byte) :
    writeCommit aw data s = { s with
      info := (writeCommit aw data s).info
      pak := (writeCommit aw data s).pak
      flash := (writeCommit aw data s).flash
      hold := (writeCommit aw data s).hold } := by
  rw [writeCommit]
  split
  · have h := pakWrite_frame (s := s) (busAddr aw).toNat Config.block data
    generalize pakWrite (busAddr aw).toNat Config.block data s = w at h ⊢
    rw [h]
  · rfl

theorem exec_frame {i : Instr} (h : exec i s = .next t) : CommandFrame s t := by
  cases i <;> simp only [exec, execInfo, execPoll, execRead, execWrite, execReset, execUnknown] at h
  case read aw =>
    split at h <;> cases h <;> exact ⟨rfl, rfl⟩
  case write aw data =>
    cases h
    have h := writeCommit_frame (s := s) aw data
    generalize writeCommit aw data s = w at h ⊢
    rw [h]
    exact ⟨rfl, rfl⟩
  all_goals cases h; exact ⟨rfl, rfl⟩

/-- The length of a reply (30_encoding R101). -/
theorem exec_reply {i : Instr} (h : exec i s = .next t) :
    ∃ bytes : List Byte, bytes.length ∈ [1, 3, 4, 33] ∧ t.eng.nreply = bytes.length
      ∧ t.eng.reply = bytes ++ s.eng.reply.drop bytes.length := by
  cases i <;> simp only [exec, execInfo, execPoll, execRead, execWrite, execReset, execUnknown] at h
  case read aw =>
    split at h <;> cases h
    · exact ⟨_, by simp [pakRead_length, Config.block], rfl, rfl⟩
    · exact ⟨List.replicate Config.block 0 ++ [0xFF], by simp [Config.block], rfl, rfl⟩
  case write aw data =>
    cases h
    refine ⟨[writeCrc data (writeCommit aw data s)], by simp, rfl, ?_⟩
    have h := writeCommit_frame (s := s) aw data
    generalize writeCommit aw data s = w at h ⊢
    rw [h]
    rfl
  case poll => cases h; exact ⟨pollReply s.par s.snap, by simp [pollReply], rfl, rfl⟩
  all_goals cases h; exact ⟨[s.info.idHigh, s.info.idLow, _], by simp, rfl, rfl⟩

/-! ### The other agents -/

/-- What the actions of the agents other than the engine can change: never `TIME`, the parameters, the levels, the line
record or the script; the engine, the store and the flush record only in `Uninit`. -/
structure ActorsFrame (s t : State) : Prop where
  time : t.time = s.time
  par : t.par = s.par
  pins : t.pins = s.pins
  wire : t.wire = s.wire
  inputs : t.env.inputs = s.env.inputs
  eng : s.eng.fsm ≠ .uninit → t.eng = s.eng
  pak : s.eng.fsm ≠ .uninit → t.pak = s.pak
  flash : s.eng.fsm ≠ .uninit → t.flash = s.flash
  hold : s.eng.fsm ≠ .uninit → t.hold = s.hold

theorem ActorsFrame.refl (s : State) : ActorsFrame s s :=
  ⟨rfl, rfl, rfl, rfl, rfl, fun _ => rfl, fun _ => rfl, fun _ => rfl, fun _ => rfl⟩

theorem ActorsFrame.trans {s t u : State} (h : ActorsFrame s t) (k : ActorsFrame t u) : ActorsFrame s u where
  time := k.time.trans h.time
  par := k.par.trans h.par
  pins := k.pins.trans h.pins
  wire := k.wire.trans h.wire
  inputs := k.inputs.trans h.inputs
  eng hf := (k.eng (by rw [h.eng hf]; exact hf)).trans (h.eng hf)
  pak hf := (k.pak (by rw [h.eng hf]; exact hf)).trans (h.pak hf)
  flash hf := (k.flash (by rw [h.eng hf]; exact hf)).trans (h.flash hf)
  hold hf := (k.hold (by rw [h.eng hf]; exact hf)).trans (h.hold hf)

/-- `InitPak` touches the pak, the flash and the flush record only. -/
theorem initPakBody_frame : initPakBody s =
    { s with pak := (initPakBody s).pak, flash := (initPakBody s).flash, hold := (initPakBody s).hold } := by
  obtain ⟨-, h⟩ | ⟨-, h⟩ := initPakBody_cases (s := s) <;> rw [h] <;> rfl

theorem initPak_frame (s : State) : ActorsFrame s (initPak s) := by
  rw [initPak]
  split
  · next hu =>
    have h := initPakBody_frame (s := s)
    generalize initPakBody s = w at h ⊢
    rw [h]
    exact ⟨rfl, rfl, rfl, rfl, rfl, fun _ => rfl, fun hf => absurd hu hf, fun hf => absurd hu hf, fun hf => absurd hu hf⟩
  · exact ActorsFrame.refl s

theorem initEngine_frame (s : State) : ActorsFrame s (initEngine s) := by
  unfold initEngine
  split
  · next hu =>
    split
    all_goals exact ⟨rfl, rfl, rfl, rfl, rfl, fun hf => absurd hu hf, fun _ => rfl, fun _ => rfl, fun _ => rfl⟩
  · exact ActorsFrame.refl s

theorem hostOp_frame (op : HostOp) (s : State) : ActorsFrame s (hostOp op s) := by
  cases op <;> rw [hostOp]
  case initPak => exact initPak_frame s
  case initEngine => exact initEngine_frame s
  all_goals exact ⟨rfl, rfl, rfl, rfl, rfl, fun _ => rfl, fun _ => rfl, fun _ => rfl, fun _ => rfl⟩

theorem withEnv_calls_frame (s : State) (calls : List HostOp) :
    ActorsFrame s (s.withEnv { s.env with calls := calls }) :=
  ⟨rfl, rfl, rfl, rfl, rfl, fun _ => rfl, fun _ => rfl, fun _ => rfl, fun _ => rfl⟩

/-- The orchestrator's action: nothing, or its next call performed. -/
theorem hostAct_cases : hostAct s = s
    ∨ ∃ op rest, s.env.calls = op :: rest ∧ orchestratorBusy s = false
        ∧ hostAct s = hostOp op (s.withEnv { s.env with calls := rest }) := by
  unfold hostAct
  split
  · exact Or.inl rfl
  · next op rest hc =>
    cases hb : orchestratorBusy s
    · exact Or.inr ⟨op, rest, hc, rfl, by simp⟩
    · exact Or.inl (by simp)

theorem hostAct_frame (s : State) : ActorsFrame s (hostAct s) := by
  obtain h | ⟨op, rest, -, -, h⟩ := hostAct_cases (s := s) <;> rw [h]
  · exact ActorsFrame.refl s
  · exact (withEnv_calls_frame s rest).trans (hostOp_frame op (s.withEnv { s.env with calls := rest }))

theorem axisHandler_frame (a : AxisId) (s : State) : ActorsFrame s (axisHandler a s) := by
  unfold axisHandler
  constructor <;> simp

/-- What a sampler tick leaves (45_sampler R271). -/
theorem samplerTick_eq (s : State) : samplerTick s =
    ((s.withBtn (debounce s.time (rawButtons s) s.btn)).withSnap
      { buttons := (debounce s.time (rawButtons s) s.btn).committed
        stickX := getAxis .x s
        stickY := getAxis .y s }).withSmp (s.time + Config.samplePeriodUs) := rfl

theorem samplerTick_frame (s : State) : ActorsFrame s (samplerTick s) := by
  rw [samplerTick_eq]
  constructor <;> simp

theorem actorAct_frame (a : Actor) (s : State) : ActorsFrame s (actorAct a s) := by
  cases a <;> rw [actorAct]
  case host => exact hostAct_frame s
  case axis a =>
    split
    · exact axisHandler_frame a s
    · exact ActorsFrame.refl s
  case sampler =>
    split
    · exact samplerTick_frame s
    · exact ActorsFrame.refl s

theorem actorsAct_frame (as : List Actor) (s : State) : ActorsFrame s (actorsAct as s) := by
  induction as generalizing s with
  | nil => exact ActorsFrame.refl s
  | cons a as ih => exact (actorAct_frame a s).trans (ih _)

/-- A property that every single action keeps is kept by any list of actions. -/
theorem actorsAct_induction {P : State → Prop} (step : ∀ a s, P s → P (actorAct a s)) (as : List Actor) (s : State)
    (h : P s) : P (actorsAct as s) := by
  induction as generalizing s with
  | nil => exact h
  | cons a as ih => exact ih _ (step a s h)

/-- With no host call waiting, the agents other than the engine change only the axes, the buttons, the snapshot and
`SMP.next`. -/
structure QuietFrame (s t : State) : Prop where
  env : t.env = s.env
  eng : t.eng = s.eng
  info : t.info = s.info
  qdInit : t.qdInit = s.qdInit
  pak : t.pak = s.pak
  flash : t.flash = s.flash
  hold : t.hold = s.hold

theorem actorAct_quiet (a : Actor) (h : s.env.calls = []) : QuietFrame s (actorAct a s) := by
  cases a <;> rw [actorAct]
  case host => rw [hostAct, h]; exact ⟨rfl, rfl, rfl, rfl, rfl, rfl, rfl⟩
  case axis a =>
    split
    · unfold axisHandler; constructor <;> simp
    · exact ⟨rfl, rfl, rfl, rfl, rfl, rfl, rfl⟩
  case sampler =>
    split
    · rw [samplerTick_eq]; constructor <;> simp
    · exact ⟨rfl, rfl, rfl, rfl, rfl, rfl, rfl⟩

theorem actorsAct_quiet (as : List Actor) (h : s.env.calls = []) : QuietFrame s (actorsAct as s) := by
  induction as generalizing s with
  | nil => exact ⟨rfl, rfl, rfl, rfl, rfl, rfl, rfl⟩
  | cons a as ih =>
    have k := actorAct_quiet a h
    have l := ih (s := actorAct a s) (by rw [k.env, h])
    exact ⟨l.env.trans k.env, l.eng.trans k.eng, l.info.trans k.info, l.qdInit.trans k.qdInit, l.pak.trans k.pak,
      l.flash.trans k.flash, l.hold.trans k.hold⟩

/-- What one `read()` of the debouncer can do (43_button R223). -/
theorem debounce_cases (now : Nat) (raw : Half) (b : Btn) :
    (raw = b.lastRaw ∧ debounce now raw b = b)
    ∨ (raw ≠ b.lastRaw ∧ now - b.lastChange < Config.debounceUs ∧ debounce now raw b = { b with lastRaw := raw })
    ∨ (raw ≠ b.lastRaw ∧ Config.debounceUs ≤ now - b.lastChange
        ∧ debounce now raw b = { lastRaw := raw, committed := raw, lastChange := now }) := by
  unfold debounce
  by_cases h : raw = b.lastRaw
  · exact Or.inl ⟨h, if_pos h⟩
  · by_cases h' : Config.debounceUs ≤ now - b.lastChange
    · exact Or.inr (Or.inr ⟨h, h', by rw [if_neg h, if_pos h']⟩)
    · exact Or.inr (Or.inl ⟨h, by omega, by rw [if_neg h, if_neg h']⟩)

end Sys2Proof.Machine
end

