-- ==== Sys2Proof/Laws/Step.lean ====
section
/-! SUPPORT. What a step can do, said once. -/

namespace Sys2Proof.Machine

variable {s t : State}

theorem step_rst (h : (currentInputs s).rst = true) : step s = .next (resetBlock (openMicro s)) := by
  rw [step, if_pos h]

theorem step_micro (h : (currentInputs s).rst = false) (ht : s.time + 1 < Config.timeLimit) : step s = micro s := by
  rw [step, if_neg (by simp [h]), if_neg (by omega)]

/-- A step that answers a next state is the reset, or a microsecond in which the engine answered. -/
theorem step_cases (h : step s = .next t) :
    ((currentInputs s).rst = true ∧ t = resetBlock (openMicro s))
    ∨ ((currentInputs s).rst = false ∧ s.time + 1 < Config.timeLimit
        ∧ ∃ u, engineAct (microBefore s) = .next u ∧ t = microAfter (currentInputs s) u) := by
  cases hr : (currentInputs s).rst
  · right
    by_cases ht : s.time + 1 < Config.timeLimit
    · rw [step_micro hr ht, micro, andThen_eq_next] at h
      obtain ⟨u, hu, he⟩ := h
      cases he
      exact ⟨rfl, ht, u, hu, rfl⟩
    · rw [step, if_neg (by simp [hr]), if_pos (by omega)] at h
      cases h
  · left
    rw [step_rst hr] at h
    cases h
    exact ⟨rfl, rfl⟩

/-- The line phase touches `ENG` and the line record only. -/
theorem linePhase_eq : linePhase s =
    { s with
      wire := { driveLow := joyDriveLow s, level := joyIn s }
      eng := engSampleLine (joyIn s) (engAdvance s.par s.hold.flushEnd s.time (joyIn s) s.eng) } := rfl

/-- The engine's action in a microsecond: outside `Exec` the line phase alone; in `Exec` a command, the start of its reply,
and the line phase. -/
theorem engineAct_cases (h : engineAct s = .next t) :
    (s.eng.fsm ≠ .exec ∧ t = linePhase s)
    ∨ (s.eng.fsm = .exec ∧ ∃ i rest u, decode s.eng.req = .ok i rest ∧ exec i s = .next u
        ∧ t = linePhase (startReply s u)) := by
  rw [engineAct, andThen_eq_next] at h
  obtain ⟨u, hu, he⟩ := h
  cases he
  rw [commandPhase] at hu
  by_cases hf : s.eng.fsm = .exec
  · right
    rw [if_pos hf, andThen_eq_next] at hu
    obtain ⟨v, hv, he⟩ := hu
    cases he
    rw [runCommand] at hv
    split at hv
    · next i rest hd => exact ⟨hf, i, rest, v, hd, hv, rfl⟩
    · cases hv
  · left
    rw [if_neg hf] at hu
    cases hu
    exact ⟨hf, rfl⟩

/-- Opening a microsecond changes the levels and the script only. -/
theorem openMicro_eq : openMicro s =
    { s with
      pins := (currentInputs s).pins
      env := { s.env with inputs := s.env.inputs.tail, calls := s.env.calls ++ (currentInputs s).calls } } := rfl

theorem microBefore_frame : ActorsFrame (openMicro s) (microBefore s) := actorsAct_frame _ _

theorem microAfter_frame (u : Inputs) : ActorsFrame s ((microAfter u s).withTime s.time) := by
  have h := actorsAct_frame (u.after ++ actorsAll s) s
  exact ⟨rfl, h.par, h.pins, h.wire, h.inputs, h.eng, h.pak, h.flash, h.hold⟩

@[simp] theorem microAfter_time (u : Inputs) : (microAfter u s).time = s.time + 1 := rfl

/-- Outside `Exec` the engine's action is the line phase. -/
theorem engineAct_of_ne_exec (h : s.eng.fsm ≠ .exec) : engineAct s = .next (linePhase s) := by
  rw [engineAct, commandPhase, if_neg h]; rfl

/-- In `Exec` the engine's action is the decoded command, the start of its reply and the line phase. -/
theorem engineAct_of_exec {i : Instr} {rest : List Byte} (h : s.eng.fsm = .exec) (hd : decode s.eng.req = .ok i rest)
    (ht : exec i s = .next t) : engineAct s = .next (linePhase (startReply s t)) := by
  rw [engineAct, commandPhase, if_pos h, runCommand, hd]
  simp only [ht, andThen_next]

/-- What the start of a reply can be: `Flushing` if the command performed a flush that lasts, else the reply at once. -/
theorem startReply_cases (s t : State) :
    (t.hold.draws ≠ s.hold.draws ∧ t.time < t.hold.flushEnd
      ∧ startReply s t = t.withEng { t.eng with fsm := .flushing, txcount := 0 })
    ∨ ((t.hold.draws = s.hold.draws ∨ t.hold.flushEnd ≤ t.time)
      ∧ startReply s t = t.withEng { t.eng with fsm := .txReply, txStart := t.time, txcount := 0 }) := by
  unfold startReply
  by_cases h : t.hold.draws ≠ s.hold.draws ∧ t.time < t.hold.flushEnd
  · exact Or.inl ⟨h.1, h.2, if_pos h⟩
  · exact Or.inr ⟨by omega, if_neg h⟩

/-- What a microsecond of `Flushing` can do to `ENG`: nothing, or the start of the reply when the flush ends. -/
theorem flushStep_cases (flushEnd t : Nat) (e : Eng) :
    (t + 1 < flushEnd ∧ flushStep flushEnd t e = e)
    ∨ (flushEnd ≤ t + 1 ∧ flushStep flushEnd t e = { e with fsm := .txReply, txStart := t + 1, txcount := 0 }) := by
  unfold flushStep
  by_cases h : flushEnd ≤ t + 1
  · exact Or.inr ⟨h, if_pos h⟩
  · exact Or.inl ⟨by omega, if_neg h⟩

/-- What Idle can do to `ENG`: the start of an exchange on a falling edge, else nothing. -/
theorem rxStart_cases (t : Nat) (level : Bool) (e : Eng) :
    ((e.lineQ = true ∧ level = false)
      ∧ rxStart t level e = { e with fsm := .rxReq, t0 := t, rxcount := 0, rxByte := 0, txcount := 0 })
    ∨ (¬(e.lineQ = true ∧ level = false) ∧ rxStart t level e = e) := by
  unfold rxStart
  cases e.lineQ <;> cases level <;> simp

/-- No byte of the reply is sent when it starts or waits for a flush. -/
@[simp] theorem startReply_txcount (s t : State) : (startReply s t).eng.txcount = 0 := by
  obtain ⟨-, -, h⟩ | ⟨-, h⟩ := startReply_cases s t <;> rw [h] <;> rfl

end Sys2Proof.Machine
end

