-- ==== Sys2Proof/Tests/Slice0.lean ====
section
/-! SUPPORT. Tests. Expected values are those of spec/95_test_vectors.md (the vector is named at each) or written out by
hand from the encodings of spec/30_encoding.md. The second half shows, for every statement with hypotheses, a concrete
state and operands that meet them. -/

-- The tests are checked one after another: many at once take many threads.
set_option Elab.async false

namespace Sys2Proof.Tests

open Sys2Proof Sys2Proof.Machine

/-! ### Helpers -/

/-- The result is a next state with the property. -/
def nextIs (r : Result) (p : State → Bool) : Bool :=
  match r with
  | .next t => p t
  | _ => false

theorem exists_of_nextIs {r : Result} {p : State → Bool} (h : nextIs r p = true) : ∃ t, r = .next t ∧ p t = true := by
  cases r with
  | next t => exact ⟨t, rfl, h⟩
  | fault _ => exact nomatch h
  | refused _ => exact nomatch h

/-- A pak ready with the formatted buffer, clean; no host call waiting. -/
def base : State :=
  { State.reset with
    pak := { buf := formattedPak, dirty := false, lastFlush := 0, ready := true }
    env := { inputs := [], calls := [], boot := [] } }

/-- `base` with another status. -/
def withStatus (v : Byte) : State := { base with info := { status := v } }

/-- `base` with another snapshot. -/
def withSnapshot (b : Half) (x y : Byte) : State := { base with snap := { buttons := b, stickX := x, stickY := y } }

/-- `base` about to execute a request whose falling edge was at `t0`, with the default stop wait. -/
def executing (t0 : Nat) (bytes : List Byte) : State :=
  { base with
    time := t0 + 32 * bytes.length + 4
    eng := { Eng.reset with
      fsm := .exec
      dir := .output
      t0 := t0
      req := bytes ++ List.replicate (35 - bytes.length) 0
      nreq := bytes.length
      rxcount := bytes.length } }

/-- `base` in `Idle` at time `t`, the line sampled high before, with a script. -/
def idling (t : Nat) (us : List Inputs) : State :=
  { base with
    time := t
    eng := { Eng.reset with fsm := .idle, lineQ := true }
    env := { base.env with inputs := us } }

/-- One microsecond with the console's pull as given. -/
def pull (low : Bool) : Inputs :=
  { pins := { Pins.quiet with consoleLow := low }, rst := false, calls := [], before := [], after := [] }

/-- One microsecond in which `rst` is asserted. -/
def rstInput : Inputs := { pull false with rst := true }

/-- The bytes 00 01 .. 1F. -/
def d1 : List Byte := (List.range 32).map (BitVec.ofNat 8)

/-- WRITE 0x0020 with `d1`, from vector K9. -/
def write20 : List Byte := [0x03, 0x00, 0x35] ++ d1

/-- The reply is as given. -/
def replies (bytes : List Byte) (t : State) : Bool := decide (replyBytes t = bytes)

/-! ### WellFormed -/

theorem test_wellFormed_refuses_short_write : (Instr.write 0x0035 (List.replicate 31 0)).wellFormed = false := by decide
theorem test_wellFormed_refuses_long_write : (Instr.write 0x0035 (List.replicate 33 0)).wellFormed = false := by decide
theorem test_wellFormed_refuses_unknown_info : (Instr.unknown 0x00).wellFormed = false := by decide
theorem test_wellFormed_refuses_unknown_poll : (Instr.unknown 0x01).wellFormed = false := by decide
theorem test_wellFormed_refuses_unknown_read : (Instr.unknown 0x02).wellFormed = false := by decide
theorem test_wellFormed_refuses_unknown_write : (Instr.unknown 0x03).wellFormed = false := by decide
theorem test_wellFormed_refuses_unknown_reset : (Instr.unknown 0xFF).wellFormed = false := by decide
theorem test_wellFormed_accepts :
    [Instr.info, .poll, .read 0x0020, .write 0x0035 d1, .reset, .unknown 0x04, .unknown 0xFE].all Instr.wellFormed = true := by
  decide

/-! ### Decode: words written out from 30_encoding sections 2, 3, 5, 6 -/

-- cmd = 0000 0000
theorem test_decode_info : decode [0b00000000] = .ok .info [] := by decide
-- cmd = 0000 0001
theorem test_decode_poll : decode [0b00000001] = .ok .poll [] := by decide
-- cmd = 0000 0010, aw = 0000 0000 001 10101: address 0x0020, checksum 0x15 (AC1)
theorem test_decode_read : decode [0b00000010, 0b00000000, 0b00110101] = .ok (.read 0b0000000000110101) [] := by decide
-- cmd = 0000 0011, aw = 1000 0000 000 00001: address 0x8000, checksum 0x01 (AC1), data AA * 32 (K13)
theorem test_decode_write : decode ([0b00000011, 0b10000000, 0b00000001] ++ List.replicate 32 0b10101010)
    = .ok (.write 0b1000000000000001 (List.replicate 32 0b10101010)) [] := by decide
-- cmd = 1111 1111
theorem test_decode_reset : decode [0b11111111] = .ok .reset [] := by decide
-- cmd = 0000 0100 and 1111 1110, the ends of the range (K16, K17)
theorem test_decode_unknown : decode [0b00000100] = .ok (.unknown 0x04) [] ∧ decode [0b11111110] = .ok (.unknown 0xFE) [] := by
  decide
theorem test_decode_leaves_the_rest : decode [0x02, 0x00, 0x35, 0x77] = .ok (.read 0x0035) [0x77] := by decide
theorem test_decode_refuses_no_bytes : decode [] = .error .noCommandByte := by decide
theorem test_decode_refuses_short_read : decode [0x02, 0x00] = .error .noAddressWord := by decide
theorem test_decode_refuses_short_write : decode ([0x03, 0x80, 0x01] ++ List.replicate 31 0) = .error .noData := by decide
-- the first byte in bits 7:0, the second in bits 15:8
theorem test_tableWord_read : decodeTableWord 24 0x350002 = some (.read 0x0035) := by decide
theorem test_tableWord_reset : decodeTableWord 8 0xFF = some .reset := by decide

/-! ### Checking functions -/

-- AC2, AC3
theorem test_addrCk : ([0x0060, 0x0300, 0x1220, 0x7FE0, 0xFFE0, 0x5540, 0xAAA0, 0x003F] : List Half).map addrCk
    = [0x0A, 0x0F, 0x10, 0x0C, 0x0D, 0x08, 0x05, 0x15] := by decide
-- AC4
theorem test_ckOk : ([0x0035, 0x0021, 0x0020, 0x0000, 0xFFFF, 0xFFED] : List Half).map ckOk
    = [true, false, false, true, false, true] := by decide
-- V1 to V7, V10
theorem test_crc8 : ([[], [0x01], [0x80], [0xFF], [0x01, 0x00], [0x12, 0x34], [0x34, 0x12], d1] : List (List Byte)).map crc8
    = [0x00, 0x85, 0x89, 0x8D, 0x97, 0xD6, 0x75, 0x33] := by decide +kernel

/-! ### Commands -/

-- K1
theorem test_info : nextIs (exec .info base) (replies [0x05, 0x00, 0x01]) = true := by decide
-- K2, K3
theorem test_poll_plain : nextIs (exec .poll (withSnapshot 0x0001 0x7F 0x80)) (replies [0x00, 0x01, 0x7F, 0x80]) = true := by
  decide
theorem test_poll_gesture : nextIs (exec .poll (withSnapshot 0x0308 0x05 0xFD))
    (fun t => replies [0x83, 0x00, 0x05, 0xFD] t && decide (t.snap.buttons = 0x0308)) = true := by decide
-- K5
theorem test_read_formatted : nextIs (exec (.read 0x0000) base)
    (replies ([0x81, 0x80, 0x80, 0x80] ++ List.replicate 28 0 ++ [0x61])) = true := by decide +kernel
-- K7
theorem test_read_wrong_checksum : nextIs (exec (.read 0x0021) base)
    (fun t => replies (List.replicate 32 0 ++ [0xFF]) t && decide (t.info.status = 0x05)) = true := by decide +kernel
-- K9
theorem test_write_commits : nextIs (exec (.write 0x0035 d1) base)
    (fun t => replies [0x33] t && decide ([0x1F, 0x20, 0x3F, 0x40].map t.pakByte = [0x00, 0x00, 0x1F, 0x00])
      && t.pak.dirty && decide (t.flash = [])) = true := by decide +kernel
-- K12
theorem test_write_wrong_checksum_removed : nextIs (exec (.write 0x0020 d1) (withStatus 0x03))
    (fun t => replies [0xCC] t && decide (t.info.status = 0x07) && !t.pak.dirty) = true := by decide +kernel
-- K15
theorem test_reset_command : nextIs (exec .reset (withStatus 0x07))
    (fun t => replies [0x05, 0x00, 0x03] t && decide (t.info.status = 0x03)) = true := by decide
-- K16
theorem test_unknown : nextIs (exec (.unknown 0x04) (withStatus 0x05)) (replies [0x05, 0x00, 0x05]) = true := by decide

/-! ### The other agents -/

-- Q7, Q5
theorem test_qtable : (qtable 0 1 + qtable 1 3 + qtable 3 1 + qtable 1 3 + qtable 3 2, qtable 1 2 + qtable 2 0) = (3, 1) := by
  decide
-- A1 to A9
theorem test_axisValue :
    ([0, 1, -1, 31, 32, 40, -32, -33, 1000000000000] : List Int).map (axisValue Params.reference)
      = [0, 4, -4, 124, 127, 127, -128, -128, 127] := by decide
-- B1, B2
theorem test_debounce :
    [debounce 10000 1 ⟨0, 0, 0⟩, debounce 12000 0 ⟨1, 1, 10000⟩, debounce 30000 0 ⟨0, 1, 10000⟩]
      = [⟨1, 1, 10000⟩, ⟨0, 1, 10000⟩, ⟨0, 1, 10000⟩] := by decide
-- B4: the boundary
theorem test_debounce_boundary : [debounce 4999 1 ⟨0, 0, 0⟩, debounce 5000 1 ⟨0, 0, 0⟩] = [⟨1, 0, 0⟩, ⟨1, 1, 5000⟩] := by decide
-- B6
theorem test_rawButtons : ([0x3FFF, 0x0000, 0x3CF7] : List (BitVec 14)).map
    (fun n => rawButtons { base with pins := { Pins.quiet with btnN := n } }) = [0x0000, 0x3FFF, 0x0308] := by decide
-- M4, M5, M6
theorem test_pakRead : (pakRead 2 4 base, pakRead 32768 2 base, (pakRead 32767 32 base).length)
    = ([0x80, 0x80, 0x00, 0x00], [0x00, 0x00], 32) := by decide
-- M8: the last byte written is 32767
theorem test_pakWrite_truncates :
    [32759, 32760, 32767, 32768].map (pakWrite 32760 32 (List.replicate 32 0xAA) base).pakByte = [0x00, 0xAA, 0xAA, 0x00] := by
  decide +kernel
-- T3
theorem test_samplerTick :
    (samplerTick { base with
      time := 7000
      qdInit := true
      axX := { position := 10, lastPhase := 0 }
      axY := { position := -3, lastPhase := 0 }
      btn := { lastRaw := 0, committed := 1, lastChange := 0 } }).snap = { buttons := 1, stickX := 40, stickY := 0xF4 } := by decide
-- H1
theorem test_initEngine_fatal :
    fatalOut (hostOp .initEngine { State.reset with pins := { Pins.quiet with lineClaimOk := false } }) = true := by decide

/-! ### Steps -/

-- W2: the reply begins in the microsecond of Exec, at 136 for t0 = 100
theorem test_step_info : nextIs (step (executing 100 [0x00]))
    (fun t => replies [0x05, 0x00, 0x01] t && decide (t.eng.fsm = .txReply) && decide (t.eng.txStart = 136)
      && t.wire.driveLow) = true := by decide +kernel
-- the fetch: RESET placed at reset runs in the next step
theorem test_step_placed : nextIs (step (State.reset.withFetchWord 8 0xFF)) (replies [0x05, 0x00, 0x01]) = true := by
  decide +kernel
-- R334 at reset of a formatted device: one step to Idle with the pak ready
theorem test_step_start_up : nextIs (step { State.reset with flash := [(15, 0x00)] })
    (fun t => decide (t.eng.fsm = .idle) && t.pak.ready && t.qdInit && decide (t.env.calls = [])) = true := by decide +kernel
-- R25, R27, R184: in Flushing no byte is sent and ENG.tx_start is not yet set
theorem test_step_flush_starts : nextIs (step { executing 2000000 write20 with
      eng := { (executing 2000000 write20).eng with txcount := 3 }
      hold := { flushEnd := 0, draws := 0, times := [9] } })
    (fun t => decide (t.eng.txcount = 0) && decide (t.eng.fsm = .flushing) && decide (t.eng.txStart = 0) && !t.wire.driveLow) = true := by decide +kernel
theorem test_step_falling_edge : nextIs (step (idling 100 [pull true]))
    (fun t => decide (t.eng.fsm = .rxReq) && decide (t.eng.t0 = 100)) = true := by decide +kernel

/-! ### Hypotheses met, statement by statement -/

/-- 999 999 and 1 000 000 microseconds after the last flush (M9, M10). -/
def atFlushAge (age : Nat) : State := { base with time := age }

/-- `executing` a WRITE one second after the last flush, with a given `T_FLUSH`. -/
def flushing (tFlush : Nat) : State :=
  { executing 2000000 write20 with hold := { flushEnd := 0, draws := 0, times := [tFlush] } }

/-- `base` in `Uninit`, `InitPak` called, the flash blank, `T_FLUSH` 7. -/
def formatting : State :=
  { State.reset with
    hold := { flushEnd := 0, draws := 0, times := [7] }
    env := { inputs := [], calls := [.initPak, .initDecoder], boot := [] } }

/-- The flash of a formatted pak. -/
def formattedFlash : Memory := pakToFlash formattedPak

theorem witness_EncodeThenDecode : (Instr.write 0x0035 d1).wellFormed = true ∧ (Instr.unknown 0x7B).wellFormed = true := by
  decide

theorem witness_DecodeThenEncode : decode [0x02, 0x00, 0x35, 0x77] = .ok (.read 0x0035) [0x77] := by decide

theorem witness_CrcIsLinear : d1.length = (List.replicate 32 (0xAA : Byte)).length := by decide

theorem witness_UnknownActsAsInfo :
    ([0x04, 0xFE] : List Byte).all (fun c => decide (0x04 ≤ c) && decide (c ≤ 0xFE)) = true := by decide

theorem witness_PollWordBits : paramsWf Params.reference = true ∧ withinMasks Params.reference 0x0308
    ∧ withinMasks Params.reference 0x0300 := by unfold withinMasks; decide

theorem witness_ReadRepliesBlockOrFailure : ckOk 0x7FEC = true ∧ ckOk 0x8001 = true ∧ ckOk 0xFFFF = false
    ∧ base.pak.ready = true := by decide

theorem witness_WriteCommitsExactlyItsBlock : d1.length = 32 ∧ Memory.wf Config.pakFill base.pak.buf = true
    ∧ ckOk 0x7FEC = true ∧ (0x7FEC &&& 0xFFE0 : Half).toNat = 32736 := by decide

theorem witness_WriteFlushesAfterOneSecond :
    d1.length = 32 ∧ Memory.wf Config.pakFill base.pak.buf = true
    ∧ ¬(ckOk 0x8001 = true ∧ base.pak.ready = true ∧ (0x8001 &&& 0xFFE0 : Half).toNat < 32768)
    ∧ (ckOk 0x0035 = true ∧ base.pak.ready = true ∧ (0x0035 &&& 0xFFE0 : Half).toNat < 32768)
    ∧ (atFlushAge 999999).time - (atFlushAge 999999).pak.lastFlush < 1000000
    ∧ 1000000 ≤ (atFlushAge 1000000).time - (atFlushAge 1000000).pak.lastFlush := by decide

theorem witness_ReadAfterWriteReturnsTheData :
    d1.length = 32 ∧ Memory.wf Config.pakFill base.pak.buf = true ∧ base.pak.ready = true ∧ ckOk 0x0035 = true
    ∧ (0x0035 &&& 0xFFE0 : Half).toNat < 32768 ∧ ckOk 0x005F = true
    ∧ ∃ t u v, exec (.write 0x0035 d1) base = .next t ∧ exec (.read 0x005F) t = .next u ∧ exec (.read 0x005F) base = .next v := by
  obtain ⟨t, ht⟩ := exec_next (.write 0x0035 d1) base
  obtain ⟨u, hu⟩ := exec_next (.read 0x005F) t
  obtain ⟨v, hv⟩ := exec_next (.read 0x005F) base
  exact ⟨by decide, by decide, by decide, by decide, by decide, by decide, t, u, v, ht, hu, hv⟩

theorem witness_CommandsTouchOnlyTheirOwnState :
    (∃ t, exec (.read 0x0021) base = .next t ∧ (!crcError base && crcError t) = true)
    ∧ (∃ t, exec .reset (withStatus 0x05) = .next t ∧ (crcError (withStatus 0x05) && !crcError t) = true)
    ∧ (∀ aw data, Instr.info ≠ .write aw data) ∧ write20.length = 35 :=
  ⟨exists_of_nextIs (by decide), exists_of_nextIs (by decide), nofun, by decide⟩

theorem witness_RepliesTellOnlyWhatTheConsoleMaySee :
    let s := base
    let s' := { base with flash := [(5, 0x77)], time := 1000000, btn := { lastRaw := 1, committed := 1, lastChange := 9 } }
    s.par = s'.par ∧ s.eng = s'.eng ∧ s.snap = s'.snap ∧ s.info = s'.info ∧ s.pak.buf = s'.pak.buf
    ∧ s.pak.ready = s'.pak.ready ∧ ∃ t t', exec (.write 0x0035 d1) s = .next t ∧ exec (.write 0x0035 d1) s' = .next t' :=
  ⟨rfl, rfl, rfl, rfl, rfl, rfl, (exec_next _ _).elim fun t h => (exec_next _ _).elim fun t' h' => ⟨t, t', h, h'⟩⟩

theorem witness_PakReadTruncatesWithZeros : base.pak.ready = true ∧ 32760 < 32768 ∧ 7 < 32 ∧ 32760 + 7 < 32768
    ∧ 8 < 32 ∧ ¬ 32760 + 8 < 32768 := by decide

theorem witness_PakWriteChangesOnlyItsWindow : 32 ≤ d1.length ∧ Memory.wf Config.pakFill base.pak.buf = true
    ∧ base.pak.ready = true ∧ (atFlushAge 999999).time - (atFlushAge 999999).pak.lastFlush < 1000000
    ∧ 1000000 ≤ (atFlushAge 1000000).time - (atFlushAge 1000000).pak.lastFlush ∧ ¬(State.reset.pak.ready = true ∧ 32760 < 32768) := by decide

theorem witness_FlushEqualsErasePlusPages : Memory.wf Config.pakFill formattedPak = true := by decide

theorem witness_InitPakLoadsOrFormats :
    let t : State := { State.reset with flash := [(15, 0x00)] }
    State.reset.eng.fsm = .uninit ∧ Memory.wf Config.flashFill State.reset.flash = true
    ∧ (∀ j, j < 16 → State.reset.flashByte j = 0xFF)
    ∧ t.eng.fsm = .uninit ∧ Memory.wf Config.flashFill t.flash = true ∧ ¬(∀ j, j < 16 → t.flashByte j = 0xFF) := by decide

/-- An INFO executing, with the decoder initialised and the phase of axis X at 11. -/
def turning : State :=
  { executing 964 [0x00] with
    qdInit := true
    pins := { Pins.quiet with encXA := true, encXB := true }
    axX := { position := 5, lastPhase := 1 } }

theorem witness_QuadratureTableAntisymmetric :
    ({ turning with axX := { position := 5, lastPhase := 0 } }.ax .x).lastPhase = 0
    ∧ phase .x { turning with axX := { position := 5, lastPhase := 0 } } = 3 := by decide

theorem witness_AxisHandlerRunsOncePerMicrosecond :
    (currentInputs turning).rst = false ∧ turning.env.calls = [] ∧ (currentInputs turning).calls = []
    ∧ engineFlushDue (openMicro turning) = false
    ∧ (turning.eng.fsm = .exec → turning.eng.req.length = 35 ∧ turning.hold.flushEnd ≤ turning.time)
    ∧ turning.time + 1 < Config.timeLimit
    ∧ turning.qdInit = true ∧ turning.hold.flushEnd ≤ turning.time
    ∧ phase .x (openMicro turning) ≠ (turning.ax .x).lastPhase := by decide

theorem witness_SetCenterZeroesPositionsOnly : base.qdInit = false := by decide

theorem witness_RawSampleIsThePressedMasks : paramsWf base.par = true := by decide

theorem witness_EarlyChangeIsNeverCommittedByWaiting :
    let b : Btn := { lastRaw := 0, committed := 0, lastChange := 1 }
    ((1 : Half) ≠ b.lastRaw) ∧ 5000 - b.lastChange < 5000 ∧ 5000 ≤ 5001 - b.lastChange ∧ ((0 : Half) = b.lastRaw) := by decide

theorem witness_SamplerTicksWhenDue :
    let s := executing 964 [0x00]
    (currentInputs s).rst = false ∧ s.env.calls = [] ∧ (currentInputs s).calls = []
    ∧ engineFlushDue (openMicro s) = false ∧ (s.eng.fsm = .exec → s.eng.req.length = 35 ∧ s.hold.flushEnd ≤ s.time)
    ∧ s.time + 1 < Config.timeLimit ∧ s.smpNext ≤ s.time ∧ s.hold.flushEnd ≤ s.time
    ∧ ¬({ s with time := 999 }.smpNext ≤ { s with time := 999 }.time) := by decide

theorem witness_InitEngineStartsOrFails :
    State.reset.eng.fsm = .uninit ∧ State.reset.pins.lineClaimOk = true
    ∧ { State.reset with pins := { Pins.quiet with lineClaimOk := false } }.pins.lineClaimOk = false
    ∧ (idling 0 []).eng.fsm ≠ .uninit := by decide

theorem witness_FatalIsLeftOnlyByRst :
    let s : State := { base with eng := { Eng.reset with fsm := .fatal } }
    s.eng.fsm = .fatal ∧ (currentInputs s).rst = false ∧ s.time + 1 < Config.timeLimit := by decide

theorem witness_SilentInUninitAndFatal : base.eng.fsm = .uninit ∨ base.eng.fsm = .fatal := by decide

theorem witness_RstRestoresTheResetState : (currentInputs (idling 9 [rstInput])).rst = true := by decide

theorem witness_StepRunsTheDecodedCommand :
    let s := executing 100 [0x02, 0x00, 0x35]
    (currentInputs s).rst = false ∧ s.time + 1 < Config.timeLimit ∧ s.eng.fsm = .exec
    ∧ decode s.eng.req = .ok (.read 0x0035) (List.replicate 32 0) := by decide

theorem witness_ReplyStartsAtExecWithoutFlush :
    let s := executing 100 write20
    (currentInputs s).rst = false ∧ s.time + 1 < Config.timeLimit ∧ s.eng.fsm = .exec ∧ s.eng.dir = .output
    ∧ decode s.eng.req = .ok (.write 0x0035 d1) []
    ∧ ∀ aw data, Instr.write 0x0035 d1 = .write aw data →
        ¬(ckOk aw = true ∧ pakAccessible (busAddr aw).toNat s = true ∧ coalesceDue s = true) := by
  refine ⟨by decide, by decide, by decide, by decide, by decide, ?_⟩
  rintro aw data h ⟨-, -, hc⟩
  exact absurd hc (by decide)

theorem witness_FlushDelaysTheReply :
    ([0, 1, 2] : List Nat).all (fun n =>
      decide ((currentInputs (flushing n)).rst = false) && decide ((flushing n).time + 1 < Config.timeLimit)
      && decide ((flushing n).eng.fsm = .exec) && decide ((flushing n).eng.dir = .output)
      && Memory.wf Config.pakFill (flushing n).pak.buf
      && decide (decode (flushing n).eng.req = .ok (.write 0x0035 d1) [])
      && ckOk 0x0035 && pakAccessible (busAddr 0x0035).toNat (flushing n) && coalesceDue (flushing n)
      && decide (flushTimeNext (flushing n) = n)) = true := by decide

theorem witness_FlushHoldsSamplerAndHandlersAtOnce :
    (currentInputs (flushing 1)).rst = false ∧ (flushing 1).env.calls = [] ∧ (currentInputs (flushing 1)).calls = []
    ∧ (flushing 1).eng.fsm = .exec ∧ decode (flushing 1).eng.req = .ok (.write 0x0035 d1) [] ∧ ckOk 0x0035 = true
    ∧ pakAccessible (busAddr 0x0035).toNat (flushing 1) = true ∧ coalesceDue (flushing 1) = true
    ∧ 0 < flushTimeNext (flushing 1) ∧ ∃ t, step (flushing 1) = .next t ∧ true = true :=
  ⟨by decide, by decide, by decide, by decide, by decide, by decide, by decide, by decide, by decide,
    exists_of_nextIs (by decide +kernel)⟩

theorem witness_FlushInProgressFreezesTheOthers :
    let s : State := { idling 50 [] with hold := { flushEnd := 51, draws := 1, times := [] } }
    (currentInputs s).rst = false ∧ s.env.calls = [] ∧ (currentInputs s).calls = [] ∧ s.eng.fsm ≠ .exec
    ∧ s.time < s.hold.flushEnd ∧ s.time + 1 < Config.timeLimit := by decide

theorem witness_FallingEdgeStartsTheExchange :
    let s := idling 100 [pull true]
    s.eng.fsm = .idle ∧ (currentInputs s).rst = false ∧ s.time + 1 < Config.timeLimit
    ∧ s.eng.lineQ = true ∧ (currentInputs s).pins.consoleLow = true
    ∧ (currentInputs (idling 100 [pull false])).pins.consoleLow = false := by decide

/-- The microseconds of a request of POLL (W3). -/
def pollOnWire : List Inputs := (framePulls [0x01]).map pull

theorem witness_WireRequestReachesExec :
    Instr.poll.wellFormed = true ∧ (idling 100 pollOnWire).eng.fsm = .idle ∧ (idling 100 pollOnWire).eng.lineQ = true
    ∧ (idling 100 pollOnWire).eng.req.length = 35 ∧ (idling 100 pollOnWire).env.inputs = pollOnWire ++ []
    ∧ pollOnWire.map (fun u => u.pins.consoleLow) = framePulls (encode .poll) ∧ (∀ u ∈ pollOnWire, u.rst = false)
    ∧ (∀ u ∈ ([] : List Inputs).take ((idling 100 pollOnWire).par.stopWait + 1), u.rst = false)
    ∧ (idling 100 pollOnWire).time + (32 * (encode .poll).length + (idling 100 pollOnWire).par.stopWait + 1) < Config.timeLimit := by
  decide

-- W2, W3: the waveforms of the bytes, the first as `bbb-` and `b---`
theorem test_framePulls : framePulls [0x01] = (List.replicate 7 [true, true, true, false]).flatten ++ [true, false, false, false] := by
  decide

/-- An INFO reply being sent from 136 on (W2), at `136 + d`. -/
def sending (d : Nat) : State :=
  { base with
    time := 136 + d
    eng := { Eng.reset with fsm := .txReply, dir := .output, txStart := 136, reply := [5, 0, 1], nreply := 3 } }

theorem witness_ReplyAppearsOnTheWire :
    (sending 0).eng.fsm = .txReply ∧ (sending 0).eng.dir = .output ∧ (sending 0).time = (sending 0).eng.txStart + 0
    ∧ 0 < 32 * (sending 0).eng.nreply ∧ (sending 0).eng.nreply ≤ (sending 0).eng.reply.length
    ∧ 0 + 98 < 32 * (sending 0).eng.nreply + 3 ∧ noRst (98 + 1) (sending 0)
    ∧ (sending 0).time + (98 + 1) < Config.timeLimit ∧ 0 + 98 + 1 = 32 * (sending 0).eng.nreply + 3 := by
  unfold noRst; decide

theorem witness_NoStepStops : (idling 100 []).eng.req.length = 35 ∧ (idling 100 []).time + 1 < Config.timeLimit := by decide

theorem witness_CrcErrorIsSticky :
    let s : State := { executing 100 [0xFF] with info := { status := 0x05 } }
    ∃ t, step s = .next t ∧ (crcError s && !crcError t) = true := exists_of_nextIs (by decide +kernel)

theorem witness_FlashChangesOnlyByFlush :
    (∃ t, step (flushing 7) = .next t ∧ decide (t.flash.head? ≠ (flushing 7).flash.head?) = true)
    ∧ ∃ t, step formatting = .next t ∧ decide (t.flash.head? ≠ formatting.flash.head?) = true :=
  ⟨exists_of_nextIs (by decide +kernel), exists_of_nextIs (by decide +kernel)⟩

theorem witness_StepPerformsTheWaitingCalls :
    let s : State := { executing 100 [0x00] with
      env := { inputs := [{ pull false with calls := [.engineReset] }], calls := [.initDecoder], boot := [] } }
    let h : State := { idling 50 [] with hold := { flushEnd := 51, draws := 1, times := [] } }
    (currentInputs s).rst = false ∧ s.time + 1 < Config.timeLimit ∧ s.eng.req.length = 35 ∧ orchestratorBusy s = false
    ∧ hostFlushDue (openMicro s) = false
    ∧ ((∀ a ∈ [AxisId.x, .y], s.qdInit = true → phase a (openMicro s) = (s.ax a).lastPhase) ∧ s.time < s.smpNext)
    ∧ orchestratorBusy h = false ∧ hostFlushDue (openMicro h) = false ∧ h.eng.fsm ≠ .exec ∧ h.time < h.hold.flushEnd
    ∧ orchestratorBusy State.reset = false ∧ State.reset.eng.lineQ = false
    ∧ hostFlushDue (openMicro { State.reset with flash := [(15, 0x00)] }) = false := by decide

theorem witness_CallsBehindAFormattingInitPakWait :
    let s := formatting
    let h : State := { formatting with hold := { flushEnd := 9, draws := 1, times := [] } }
    (currentInputs s).rst = false ∧ s.time + 1 < Config.timeLimit ∧ s.eng.fsm = .uninit
    ∧ s.hold.flushEnd ≤ s.time
    ∧ HostOp.initPak ∈ (s.env.calls ++ (currentInputs s).calls).takeWhile (fun op => op != .initEngine)
    ∧ (∀ j, j < 16 → s.flashByte j = 0xFF) ∧ 0 < flushTimeNext s
    ∧ h.eng.fsm = .uninit ∧ h.time < h.hold.flushEnd := by decide

theorem witness_LineIsReleasedForTheWholeFlush :
    let s : State := { executing 100 write20 with
      time := 2000
      eng := { (executing 100 write20).eng with fsm := .flushing }
      hold := { flushEnd := 2010, draws := 1, times := [] } }
    s.eng.fsm = .flushing ∧ s.time + 9 < s.hold.flushEnd ∧ noRst (9 + 1) s ∧ s.time + (9 + 1) < Config.timeLimit
    ∧ s.time + (9 + 1) = s.hold.flushEnd ∧ s.time + (8 + 1) < s.hold.flushEnd := by unfold noRst; decide

theorem witness_LineIsSampledInEveryStartedState :
    let s := executing 100 [0x00]
    s.eng.fsm ≠ .uninit ∧ s.eng.fsm ≠ .fatal ∧ (currentInputs s).rst = false ∧ s.time + 1 < Config.timeLimit
    ∧ s.eng.req.length = 35 ∧ (idling 9 []).eng.fsm ∈ [Fsm.idle, .rxReq, .stopWait, .dead, .flushing]
    ∧ (idling 9 []).eng.dir = .input := by decide

theorem witness_ReferenceStartUpReachesIdle :
    let s : State := { State.reset with hold := { flushEnd := 0, draws := 0, times := [7] } }
    7 = (if flashBlank s.flash = true then flushTimeNext s else 0)
    ∧ s.eng.fsm = .uninit ∧ s.eng.lineQ = false ∧ s.hold.flushEnd ≤ s.time
    ∧ s.env.calls = [.initPak, .initDecoder, .initButtons, .initEngine]
    ∧ Memory.wf Config.flashFill s.flash = true ∧ s.pins.lineClaimOk = true
    ∧ (∀ u ∈ s.env.inputs.take (7 + 1), u.rst = false ∧ u.calls = [] ∧ u.pins.lineClaimOk = true)
    ∧ s.time + (7 + 1) < Config.timeLimit ∧ flashBlank [(15, 0x00)] = false := by decide

/-- A state that meets every invariant: reading a command, the pak mirrored by the flash, a button held. -/
def good : State :=
  { base with
    time := 136
    flash := formattedFlash
    snap := { buttons := 0x0308, stickX := 0, stickY := 0 }
    btn := { lastRaw := 0x0308, committed := 0x0308, lastChange := 100 }
    eng := (executing 100 [0x00]).eng }

theorem witness_StepKeepsButtonVectors : ButtonsOk good ∧ ∃ t, step good = .next t ∧ true = true :=
  ⟨⟨by unfold withinMasks; decide, by unfold withinMasks; decide, by unfold withinMasks; decide⟩,
    exists_of_nextIs (by decide +kernel)⟩

theorem witness_StepKeepsStatus : StatusOk good ∧ ∃ t, step good = .next t ∧ true = true :=
  ⟨⟨by decide, by decide, by decide⟩, exists_of_nextIs (by decide +kernel)⟩

theorem witness_StepKeepsStamps : StampsOk good ∧ ∃ t, step good = .next t ∧ true = true :=
  ⟨⟨by decide, by decide, by decide⟩, exists_of_nextIs (by decide +kernel)⟩

theorem witness_StepKeepsStore : StoreOk good ∧ ∃ t, step good = .next t ∧ true = true :=
  ⟨⟨by decide, pakToFlash_wf _, fun _ _ _ hi => pakToFlash_read (by decide) hi⟩, exists_of_nextIs (by decide +kernel)⟩

theorem witness_StepKeepsEngineOnTimeline : EngineOk good ∧ ∃ t, step good = .next t ∧ true = true :=
  ⟨⟨⟨by decide, by decide⟩, ⟨by decide, by decide, by decide⟩, by decide, by decide, fun _ _ => by decide⟩,
    exists_of_nextIs (by decide +kernel)⟩

end Sys2Proof.Tests
end

section
/-! PROOFS. The commands of 40_joybus_commands: the CRC-8 (R133, R134), the address word (R131, R132), UNKNOWN
(R141) and what no command touches (R142). -/

namespace Sys2Proof.Machine

/-! ### The CRC-8 -/

theorem crcShift_eq (a : Byte) : crcShift a = a <<< 1 ^^^ if a.getLsbD 7 then Config.crc8Poly else 0 := by
  unfold crcShift
  split <;> simp

theorem crcShift_xor (a b : Byte) : crcShift (a ^^^ b) = crcShift a ^^^ crcShift b := by
  have poly_xor : ∀ p q : Bool, (if (p ^^ q) = true then Config.crc8Poly else 0)
      = (if p = true then Config.crc8Poly else 0) ^^^ if q = true then Config.crc8Poly else 0 := by decide
  simp only [crcShift_eq, BitVec.shiftLeft_xor_distrib, BitVec.getLsbD_xor, poly_xor]
  ac_rfl

/-- One byte of the CRC-8 with its eight shifts written out. -/
theorem crcByte_eq (c x : Byte) : crcByte c x =
    crcShift (crcShift (crcShift (crcShift (crcShift (crcShift (crcShift (crcShift (c ^^^ x)))))))) := rfl

theorem crcByte_xor (c c' x x' : Byte) : crcByte (c ^^^ c') (x ^^^ x') = crcByte c x ^^^ crcByte c' x' := by
  have regroup : c ^^^ c' ^^^ (x ^^^ x') = (c ^^^ x) ^^^ (c' ^^^ x') := by ac_rfl
  simp only [crcByte_eq, regroup, crcShift_xor]

/-- Linearity from any two accumulators, the form the induction over the bytes needs. -/
theorem foldl_crcByte_xor (d e : List Byte) (c c' : Byte) (h : d.length = e.length) :
    (List.zipWith (fun x y => x ^^^ y) d e).foldl crcByte (c ^^^ c') = d.foldl crcByte c ^^^ e.foldl crcByte c' := by
  induction d generalizing e c c' with
  | nil =>
    obtain rfl := List.eq_nil_of_length_eq_zero h.symm
    rfl
  | cons x d ih =>
    cases e with
    | nil => simp at h
    | cons y e =>
      simp only [List.zipWith_cons_cons, List.foldl_cons, crcByte_xor]
      exact ih e _ _ (by simpa using h)

theorem crc8_xor (d e : List Byte) (h : d.length = e.length) :
    crc8 (List.zipWith (fun x y => x ^^^ y) d e) = crc8 d ^^^ crc8 e :=
  foldl_crcByte_xor d e Config.crc8Seed Config.crc8Seed h

theorem crc8_append (d e : List Byte) : crc8 (d ++ e) = e.foldl crcByte (crc8 d) := List.foldl_append

/-- Zero bytes leave the accumulator at the seed: the seed is 0 and a zero byte keeps 0. -/
theorem crc8_zeros (n : Nat) : crc8 (List.replicate n 0) = Config.crc8Seed := by
  induction n with
  | zero => rfl
  | succ n ih =>
    have keeps_zero : crcByte Config.crc8Seed 0 = Config.crc8Seed := by decide
    rw [List.replicate_succ', crc8_append, ih, List.foldl_cons, List.foldl_nil, keeps_zero]

theorem crc8_zeros_append (n : Nat) (d : List Byte) : crc8 (List.replicate n 0 ++ d) = crc8 d := by
  rw [crc8_append, crc8_zeros, crc8]

theorem crc8_append_zero (d : List Byte) : crc8 (d ++ [0]) = crcByte (crc8 d) 0 := crc8_append d [0]

/-- Settles O7 (R134): linearity by induction over the bytes, from the linearity of one shift. -/
theorem crcIsLinear : Obligations.CrcIsLinear := by
  refine ⟨crc8_xor, crc8_zeros, crc8_zeros_append, fun d => ?_, ?_⟩
  · rw [crc8_append_zero, crcByte_eq, show crc8 d ^^^ 0 = crc8 d from BitVec.xor_zero]
  · rw [crc8_zeros]
    decide

/-! ### The address word -/

/-- The bus address of a word put together from bits 15:5 and bits 4:0. -/
theorem busAddr_append (top : BitVec 11) (c : BitVec 5) : busAddr (top ++ c) = top ++ (0 : BitVec 5) := by
  have split_mask : (0xFFE0 : Half) = BitVec.allOnes 11 ++ (0 : BitVec 5) := by decide
  rw [busAddr, split_mask, BitVec.and_append, BitVec.and_allOnes, show c &&& 0 = 0 from BitVec.and_zero]

theorem awChecksum_append (top : BitVec 11) (c : BitVec 5) : awChecksum (top ++ c) = c :=
  BitVec.extractLsb'_append_eq_right

theorem awChecksum_toNat (aw : Half) : (awChecksum aw).toNat = (aw &&& 0x001F).toNat := by
  have low_bits : aw.toNat &&& 31 = aw.toNat % 32 := Nat.and_two_pow_sub_one_eq_mod aw.toNat 5
  simp [awChecksum, low_bits]

theorem ckOk_iff_toNat (aw : Half) : ckOk aw = true ↔ (addrCk (aw &&& 0xFFE0)).toNat = (aw &&& 0x001F).toNat := by
  rw [ckOk, beq_iff_eq, ← BitVec.toNat_inj, awChecksum_toNat, busAddr]

/-- The one accepted checksum of an address, given by its bits 15:5. -/
theorem ckOk_append_iff (top : BitVec 11) (c : BitVec 5) :
    ckOk (top ++ c) = true ↔ c = addrCk (top ++ (0 : BitVec 5)) := by
  rw [ckOk, busAddr_append, awChecksum_append, beq_iff_eq, eq_comm]

/-- A word's number is 32 times its bits 15:5 plus its bits 4:0. -/
theorem ofNat_eq_append {t j : Nat} (ht : t < 2048) (hj : j < 32) :
    BitVec.ofNat 16 (t * 32 + j) = BitVec.ofNat 11 t ++ BitVec.ofNat 5 j := by
  apply BitVec.eq_of_toNat_eq
  have disjoint : t <<< 5 ||| j = t * 32 + j := by
    rw [← Nat.shiftLeft_add_eq_or_of_lt (by omega), Nat.shiftLeft_eq]
  rw [BitVec.toNat_append, BitVec.toNat_ofNat, BitVec.toNat_ofNat, BitVec.toNat_ofNat, Nat.mod_eq_of_lt (by omega),
    Nat.mod_eq_of_lt (by omega), Nat.mod_eq_of_lt (by omega), disjoint]

/-- A predicate met by exactly one number of a range. -/
theorem countP_range_unique {n k : Nat} {p : Nat → Bool} (hk : k < n) (hp : ∀ j < n, p j = true ↔ j = k) :
    (List.range n).countP p = 1 := by
  have only_k : (List.range n).countP p = (List.range n).count k :=
    List.countP_congr fun j hj => by rw [hp j (List.mem_range.mp hj), beq_iff_eq]
  rw [only_k, List.count_eq_one_of_mem List.nodup_range (List.mem_range.mpr hk)]

/-- A predicate met by exactly one number of each of `m` blocks of `n`. -/
theorem countP_range_blocks {m n : Nat} {p : Nat → Bool}
    (hp : ∀ t < m, ∃ k < n, ∀ j < n, p (t * n + j) = true ↔ j = k) : (List.range (m * n)).countP p = m := by
  induction m with
  | zero => simp
  | succ m ih =>
    obtain ⟨k, hk, hblock⟩ := hp m (Nat.lt_succ_self m)
    rw [Nat.succ_mul, List.range_add, List.countP_append, List.countP_map,
      ih fun t ht => hp t (Nat.lt_succ_of_lt ht), countP_range_unique (p := p ∘ (m * n + ·)) hk hblock]

theorem ckOk_unique_in_block {t : Nat} (ht : t < 2048) :
    ∃ k < 32, ∀ j < 32, ckOk (BitVec.ofNat 16 (t * 32 + j)) = true ↔ j = k := by
  refine ⟨(addrCk (BitVec.ofNat 11 t ++ (0 : BitVec 5))).toNat, BitVec.isLt _, fun j hj => ?_⟩
  rw [ofNat_eq_append ht hj, ckOk_append_iff, ← BitVec.toNat_inj, BitVec.toNat_ofNat, Nat.mod_eq_of_lt hj]

/-- Settles O6 (R132): the 65536 words are 2048 blocks, one for each value of bits 15:5, each with one accepted word. -/
theorem addressWordAcceptedExactlyOnMatch : Obligations.AddressWordAcceptedExactlyOnMatch := by
  refine ⟨ckOk_iff_toNat, fun top => ⟨_, ckOk_append_iff top⟩, ?_⟩
  rw [← List.countP_eq_length_filter]
  exact countP_range_blocks (m := 2048) (n := 32) fun _ => ckOk_unique_in_block

/-! ### Decoding -/

theorem decode_unknown {cmd : Byte} (h : (Instr.unknown cmd).wellFormed = true) (rest : List Byte) :
    decode (cmd :: rest) = .ok (.unknown cmd) rest := by
  simp only [Instr.wellFormed, Bool.and_eq_true, bne_iff_ne] at h
  obtain ⟨⟨⟨⟨not_info, not_poll⟩, not_read⟩, not_write⟩, not_reset⟩ := h
  rw [decode, if_neg not_info, if_neg not_poll, if_neg not_read, if_neg not_write, if_neg not_reset]

theorem requestLength_unknown {cmd : Byte} (h : (Instr.unknown cmd).wellFormed = true) : requestLength cmd = 1 := by
  simp only [Instr.wellFormed, Bool.and_eq_true, bne_iff_ne] at h
  obtain ⟨⟨⟨-, not_read⟩, not_write⟩, -⟩ := h
  rw [requestLength, if_neg not_read, if_neg not_write]

/-- The command bytes of the row UNKNOWN (30_encoding R102). -/
theorem unknown_wellFormed {cmd : Byte} (hlo : 0x04 ≤ cmd) (hhi : cmd ≤ 0xFE) :
    (Instr.unknown cmd).wellFormed = true := by
  have differs : ∀ b : Byte, b < 0x04 ∨ 0xFE < b → cmd ≠ b := by
    rintro b hb rfl
    bv_omega
  simp only [Instr.wellFormed, Bool.and_eq_true, bne_iff_ne]
  exact ⟨⟨⟨⟨differs _ (by decide), differs _ (by decide)⟩, differs _ (by decide)⟩, differs _ (by decide)⟩,
    differs _ (by decide)⟩

/-- The dispatch is total (R142): 34 bytes after the first are enough for every command. -/
theorem decode_total (c : Byte) {rest : List Byte} (h : rest.length = 34) : ∃ i r, decode (c :: rest) = .ok i r := by
  obtain ⟨a, b, data, rfl⟩ : ∃ a b data, rest = a :: b :: data := by
    match rest, h with
    | a :: b :: data, _ => exact ⟨a, b, data, rfl⟩
  have enough : ¬ data.length < Config.block := by
    rw [Config.block]
    simp only [List.length_cons] at h
    omega
  simp only [decode, decodeRead, decodeWrite, if_neg enough]
  split_ifs <;> exact ⟨_, _, rfl⟩

/-! ### UNKNOWN -/

theorem exec_unknown_eq_info (cmd : Byte) (s : State) : exec (.unknown cmd) s = exec .info s := rfl

theorem exec_info_eq (s : State) : exec .info s = .next (identify s) := rfl

theorem identify_replyBytes (s : State) : replyBytes (identify s) = [0x05, 0x00, s.info.status] := setReply_bytes _

theorem identify_onlyEngChanged (s : State) : onlyEngChanged s (identify s) := rfl

theorem identify_onlyReplyChanged (s : State) : onlyReplyChanged s (identify s) := rfl

/-- Settles O9 (R141): the byte selects the row UNKNOWN, and UNKNOWN is INFO. -/
theorem unknownActsAsInfo : Obligations.UnknownActsAsInfo := by
  intro cmd hlo hhi
  have hwf := unknown_wellFormed hlo hhi
  refine ⟨requestLength_unknown hwf, decode_unknown hwf, fun s => ⟨exec_unknown_eq_info cmd s, identify s, ?_⟩⟩
  rw [exec_unknown_eq_info]
  exact ⟨exec_info_eq s, identify_replyBytes s, identify_onlyEngChanged s, identify_onlyReplyChanged s⟩

/-! ### What a command touches -/

variable {s t : State}

theorem pakWrite_info (addr len : Nat) (data : List Byte) : (pakWrite addr len data s).info = s.info :=
  (congrArg State.info (pakWrite_frame addr len data) :)

/-- What a command can do to `INFO`: nothing, a `ChecksumError` raised by READ or WRITE, or its end by RESET. -/
theorem exec_info_cases {i : Instr} (h : exec i s = .next t) :
    t.info = s.info
    ∨ (((∃ aw, i = .read aw) ∨ ∃ aw data, i = .write aw data) ∧ t.info = { status := setCrcError s.info.status })
    ∨ (i = .reset ∧ t.info = { status := clearCrcError s.info.status }) := by
  cases i with
  | info => cases h; exact .inl rfl
  | poll => cases h; exact .inl rfl
  | unknown cmd => cases h; exact .inl rfl
  | reset => cases h; exact .inr (.inr ⟨rfl, rfl⟩)
  | read aw =>
    rw [exec, execRead] at h
    split at h <;> cases h
    · exact .inl rfl
    · exact .inr (.inl ⟨.inl ⟨aw, rfl⟩, rfl⟩)
  | write aw data =>
    cases h
    rw [setReply_eq, State.withEng_info, writeCommit]
    split
    · exact .inl (pakWrite_info _ _ _)
    · exact .inr (.inl ⟨.inr ⟨aw, data, rfl⟩, rfl⟩)

/-- Only WRITE reaches the store. -/
theorem exec_store_of_not_write {i : Instr} (h : exec i s = .next t) (hi : ∀ aw data, i ≠ .write aw data) :
    t.pak = s.pak ∧ t.flash = s.flash := by
  cases i with
  | write aw data => exact absurd rfl (hi aw data)
  | read aw =>
    rw [exec, execRead] at h
    split at h <;> cases h <;> exact ⟨rfl, rfl⟩
  | info => cases h; exact ⟨rfl, rfl⟩
  | poll => cases h; exact ⟨rfl, rfl⟩
  | reset => cases h; exact ⟨rfl, rfl⟩
  | unknown cmd => cases h; exact ⟨rfl, rfl⟩

theorem exec_status_low {i : Instr} (h : exec i s = .next t) : t.info.status &&& 3 = s.info.status &&& 3 := by
  obtain hi | ⟨-, hi⟩ | ⟨-, hi⟩ := exec_info_cases h <;> rw [hi]
  · exact setCrcError_and_three _
  · exact clearCrcError_and_three _

theorem exec_sets_crcError {i : Instr} (h : exec i s = .next t) (hs : crcError s = false) (ht : crcError t = true) :
    (∃ aw, i = .read aw) ∨ ∃ aw data, i = .write aw data := by
  obtain hi | ⟨transfer, -⟩ | ⟨-, hi⟩ := exec_info_cases h
  · rw [crcError, hi, ← crcError, hs] at ht
    cases ht
  · exact transfer
  · rw [crcError, hi, clearCrcError_bit] at ht
    cases ht

theorem exec_clears_crcError {i : Instr} (h : exec i s = .next t) (hs : crcError s = true) (ht : crcError t = false) :
    i = .reset := by
  obtain hi | ⟨-, hi⟩ | ⟨reset, -⟩ := exec_info_cases h
  · rw [crcError, hi, ← crcError, hs] at ht
    cases ht
  · rw [crcError, hi, setCrcError_bit] at ht
    cases ht
  · exact reset

/-- Settles O17 (R142): the frame of every command, its possible effects on `INFO`, and the totality of the dispatch. -/
theorem commandsTouchOnlyTheirOwnState : Obligations.CommandsTouchOnlyTheirOwnState := by
  refine ⟨fun i s t h => ?_, fun bytes hlen => ?_⟩
  · have frame := (exec_frame h).rest
    exact ⟨(congrArg State.snap frame :), (congrArg State.axX frame :), (congrArg State.axY frame :),
      (congrArg State.btn frame :), (congrArg State.smpNext frame :), (congrArg State.qdInit frame :), rfl, rfl,
      exec_status_low h, (congrArg State.time frame :), exec_store_of_not_write h,
      exec_sets_crcError h, exec_clears_crcError h⟩
  · cases bytes with
    | nil => simp at hlen
    | cons c rest => exact decode_total c (by simpa using hlen)

end Sys2Proof.Machine
end

section
/-! PROOFS. The bit transceiver of 41_bit_transceiver: the engine in `Uninit` and `Fatal` (R187). -/

namespace Sys2Proof.Machine

variable {s : State}

/-- Neither `Uninit` nor `Fatal` is a state in which the block sends, whatever `ENG.dir` is. -/
theorem joyDriveLow_of_not_started (h : s.eng.fsm = .uninit ∨ s.eng.fsm = .fatal) : joyDriveLow s = false := by
  rw [joyDriveLow, Bool.and_eq_false_iff]
  right
  obtain uninit | fatal := h
  · rw [uninit]
  · rw [fatal]

theorem joyIn_of_released (h : joyDriveLow s = false) : joyIn s = !s.pins.consoleLow := by
  rw [joyIn, h, Bool.false_or]

theorem engAdvance_of_not_started {e : Eng} (h : e.fsm = .uninit ∨ e.fsm = .fatal) (p : Params) (flushEnd t : Nat)
    (level : Bool) : engAdvance p flushEnd t level e = e := by
  obtain uninit | fatal := h
  · rw [engAdvance, uninit]
  · rw [engAdvance, fatal]

theorem engSampleLine_of_not_started {e : Eng} (h : e.fsm = .uninit ∨ e.fsm = .fatal) (level : Bool) :
    engSampleLine level e = e := if_pos h

theorem linePhase_of_not_started (h : s.eng.fsm = .uninit ∨ s.eng.fsm = .fatal) :
    linePhase s = { s with wire := { driveLow := false, level := !s.pins.consoleLow } } := by
  have released := joyDriveLow_of_not_started h
  rw [linePhase_eq, engAdvance_of_not_started h, engSampleLine_of_not_started h, joyIn_of_released released, released]

/-- Settles O34 (R187): no command is due, so the engine's action is the line phase, which then keeps `ENG` and releases
the line. -/
theorem silentInUninitAndFatal : Obligations.SilentInUninitAndFatal := by
  intro s h
  have not_exec : s.eng.fsm ≠ .exec := by
    obtain uninit | fatal := h
    · simp [uninit]
    · simp [fatal]
  rw [engineAct_of_ne_exec not_exec, linePhase_of_not_started h]

end Sys2Proof.Machine
end

section
/-! PROOFS. The quadrature decoder of 42_quadrature_decoder: the table and the handler's jump (R203, R207), and `SetCenter`
(R206). -/

namespace Sys2Proof.Machine

/-! ### The table -/

theorem qtable_antisymm : ∀ p q : BitVec 2, qtable p q = - qtable q p := by decide

theorem qtable_self (p : BitVec 2) : qtable p p = 0 := self_eq_neg.mp (qtable_antisymm p p)

theorem qtable_jump : qtable 0 3 = 0 := rfl

/-! ### One run of the handler -/

theorem axisHandler_of_qtable_zero {a : AxisId} {s : State} (h : qtable (s.ax a).lastPhase (phase a s) = 0) :
    axisHandler a s = s.withAx a { s.ax a with lastPhase := phase a s } := by
  rw [axisHandler, h, Int.add_zero]

/-- Settles O23 (R207): the diagonal follows from antisymmetry, each full turn is a sum of four table entries, and the
jump from 00 to 11 is an entry 0. -/
theorem quadratureTableAntisymmetric : Obligations.QuadratureTableAntisymmetric := by
  refine ⟨qtable_antisymm, qtable_self, by decide, by decide, fun a s hlast hphase => ?_⟩
  have no_count : qtable (s.ax a).lastPhase (phase a s) = 0 := by rw [hlast, hphase, qtable_jump]
  rw [axisHandler_of_qtable_zero no_count, hphase]

/-! ### SetCenter -/

theorem setCenter_eq (s : State) : setCenter s =
    { s with axX := { s.axX with position := 0 }, axY := { s.axY with position := 0 } } := rfl

theorem getAxis_of_not_initialized {s : State} (h : s.qdInit = false) (a : AxisId) : getAxis a s = 0 := by
  rw [getAxis, h, if_neg Bool.false_ne_true]

/-- Settles O27 (R206): `SetCenter` leaves `QD.initialized`, so before `InitDecoder` every stick value is 0 on both
sides. -/
theorem setCenterZeroesPositionsOnly : Obligations.SetCenterZeroesPositionsOnly := by
  intro s
  refine ⟨setCenter_eq s, fun a hqd => ?_⟩
  have hqd' : (hostOp .setCenter s).qdInit = false := hqd
  rw [getAxis_of_not_initialized hqd', getAxis_of_not_initialized hqd]

end Sys2Proof.Machine
end

section
/-! PROOFS. The host operations of 45_sampler: `EngineReset` (R276). -/

namespace Sys2Proof.Machine

theorem hostOp_engineReset (s : State) :
    hostOp .engineReset s = { s with info := { status := clearCrcError s.info.status } } := rfl

/-- Settles O32 (R276): `EngineReset` writes `INFO` alone, and what it writes is the status without `CRC_ERROR`. -/
theorem engineResetClearsCrcErrorOnly : Obligations.EngineResetClearsCrcErrorOnly := by
  intro s
  rw [hostOp_engineReset]
  refine ⟨rfl, rfl, ?_⟩
  rw [crcError, clearCrcError_bit]

end Sys2Proof.Machine
end

section
/-! PROOFS. The requests of 30_encoding: encoding and decoding are inverse on the well-formed commands (R98 to R102,
R111). -/

namespace Sys2Proof.Machine

/-! ### The address word -/

theorem concat_hi_lo (w : Half) : concat (hi w) (lo w) = w := by
  have adjacent := BitVec.extractLsb'_append_extractLsb'_eq_extractLsb' (x := w) (start₁ := 0) (len₁ := 8)
    (start₂ := 8) (len₂ := 8) rfl
  rw [concat, hi, lo, adjacent]
  exact BitVec.extractLsb'_eq_self

theorem hi_concat (a b : Byte) : hi (concat a b) = a := BitVec.extractLsb'_append_eq_left

theorem lo_concat (a b : Byte) : lo (concat a b) = b := BitVec.extractLsb'_append_eq_right

/-! ### What each command byte decodes to -/

theorem decode_info (rest : List Byte) : decode (Config.cmdInfo :: rest) = .ok .info rest := rfl

theorem decode_poll (rest : List Byte) : decode (Config.cmdPoll :: rest) = .ok .poll rest := rfl

theorem decode_read (a b : Byte) (rest : List Byte) :
    decode (Config.cmdRead :: a :: b :: rest) = .ok (.read (concat a b)) rest := rfl

theorem decode_write {a b : Byte} {data : List Byte} (h : data.length = Config.block) (rest : List Byte) :
    decode (Config.cmdWrite :: a :: b :: (data ++ rest)) = .ok (.write (concat a b) data) rest := by
  have long : ¬ (data ++ rest).length < Config.block := by rw [List.length_append]; omega
  have opcode : decode (Config.cmdWrite :: a :: b :: (data ++ rest)) = decodeWrite (a :: b :: (data ++ rest)) := rfl
  rw [opcode, decodeWrite, if_neg long, ← h, List.take_left, List.drop_left]

theorem decode_reset (rest : List Byte) : decode (Config.cmdReset :: rest) = .ok .reset rest := rfl

/-- Decoding the encoding of a well-formed command gives the command, whatever follows (R111). -/
theorem decode_encode {i : Instr} (h : i.wellFormed = true) (rest : List Byte) :
    decode (encode i ++ rest) = .ok i rest := by
  cases i with
  | info => exact decode_info rest
  | poll => exact decode_poll rest
  | read aw => exact (decode_read (hi aw) (lo aw) rest).trans (by rw [concat_hi_lo])
  | write aw data => exact (decode_write (beq_iff_eq.mp h) rest).trans (by rw [concat_hi_lo])
  | reset => exact decode_reset rest
  | unknown cmd => exact decode_unknown h rest

/-- Settles O2 (R111): one decoding equation per command. -/
theorem encodeThenDecode : Obligations.EncodeThenDecode := fun _ rest h => decode_encode h rest

/-- What can decode: one way per row of the command map (R102). -/
theorem decode_cases {bytes : List Byte} {i : Instr} {rest : List Byte} (h : decode bytes = .ok i rest) :
    i.wellFormed = true ∧ bytes = encode i ++ rest := by
  cases bytes with
  | nil => cases h
  | cons c bytes =>
    rw [decode] at h
    split_ifs at h with info poll read write reset
    · cases h; exact ⟨rfl, by rw [info]; rfl⟩
    · cases h; exact ⟨rfl, by rw [poll]; rfl⟩
    · match bytes, h with
      | a :: b :: rest, h =>
        cases h
        exact ⟨rfl, by rw [read, encode, hi_concat, lo_concat]; rfl⟩
    · match bytes, h with
      | a :: b :: tail, h =>
        rw [decodeWrite] at h
        split_ifs at h with short
        cases h
        refine ⟨by simpa [Instr.wellFormed] using not_lt.mp short, ?_⟩
        rw [write, encode, hi_concat, lo_concat]
        simp only [List.cons_append, List.take_append_drop]
    · cases h; exact ⟨rfl, by rw [reset]; rfl⟩
    · cases h
      refine ⟨?_, rfl⟩
      simp [Instr.wellFormed, info, poll, read, write, reset]

theorem requestLength_pos (c : Byte) : 0 < requestLength c := by
  rw [requestLength]
  split_ifs <;> decide

theorem requestLength_le (c : Byte) : requestLength c ≤ Config.reqSize := by
  rw [requestLength]
  split_ifs <;> decide

theorem encode_ne_nil (i : Instr) : encode i ≠ [] := by cases i <;> exact List.cons_ne_nil _ _

/-- The first byte of a request decides its length (R100). -/
theorem length_encode {i : Instr} (h : i.wellFormed = true) :
    (encode i).length = requestLength ((encode i).headD 0) := by
  cases i with
  | write aw data =>
    have len : data.length = Config.block := beq_iff_eq.mp h
    rw [encode, List.length_cons, List.length_cons, List.length_cons, len]
    rfl
  | unknown cmd => exact (requestLength_unknown h).symm
  | info => rfl
  | poll => rfl
  | read aw => rfl
  | reset => rfl

theorem headD_encode_append (i : Instr) (rest : List Byte) (d : Byte) : (encode i ++ rest).headD d = (encode i).headD d := by
  cases i <;> rfl

/-- Settles O3 (R100, R111): the command map read backwards. -/
theorem decodeThenEncode : Obligations.DecodeThenEncode := by
  intro bytes i rest h
  obtain ⟨hwf, hbytes⟩ := decode_cases h
  refine ⟨hwf, hbytes, ?_⟩
  rw [hbytes, headD_encode_append, length_encode hwf]

/-- No command byte is illegal (R103): what holds as many bytes as the first byte asks for decodes. -/
theorem decode_of_long_enough (c : Byte) {bytes : List Byte} (h : requestLength c ≤ (c :: bytes).length) :
    ∃ i rest, decode (c :: bytes) = .ok i rest := by
  rw [decode]
  split_ifs with info poll read write reset
  · exact ⟨_, _, rfl⟩
  · exact ⟨_, _, rfl⟩
  · match bytes, h with
    | [], h => subst read; exact absurd h (by decide)
    | [_], h => subst read; exact absurd h (by simp [requestLength])
    | a :: b :: rest, _ => exact ⟨_, _, rfl⟩
  · have len : Config.reqSize ≤ bytes.length + 1 := by subst write; exact h
    match bytes, len with
    | [], len => exact absurd len (by decide)
    | [_], len => exact absurd len (by simp [Config.reqSize])
    | a :: b :: data, len =>
      have enough : ¬ data.length < Config.block := by
        simp only [Config.reqSize, Config.block, List.length_cons] at len ⊢
        omega
      exact ⟨_, _, by rw [decodeWrite, if_neg enough]⟩
  · exact ⟨_, _, rfl⟩
  · exact ⟨_, _, rfl⟩

/-- Settles O4 (R100, R103): what decodes is an encoding with something after it, so it is long enough. -/
theorem decodesExactlyWhenLongEnough : Obligations.DecodesExactlyWhenLongEnough := by
  intro bytes
  constructor
  · rintro ⟨i, rest, h⟩
    obtain ⟨hwf, rfl⟩ := decode_cases h
    refine ⟨by simp [encode_ne_nil], ?_⟩
    rw [headD_encode_append, ← length_encode hwf, List.length_append]
    omega
  · rintro ⟨nonempty, long⟩
    cases bytes with
    | nil => exact absurd rfl nonempty
    | cons c bytes => exact decode_of_long_enough c long

/-- Settles O1 (R102): one written-out request per row of the command map. -/
theorem decodedWordsOfEachCommand : Obligations.DecodedWordsOfEachCommand :=
  ⟨decode_info [], decode_poll [], decode_read 0x00 0x35 [], decode_write (a := 0x80) (b := 0x01) List.length_replicate [],
    decode_reset [], decode_unknown (cmd := 0x7B) rfl []⟩

end Sys2Proof.Machine
end

section
/-! PROOFS. The operand forms of 40_joybus_commands: the weights of the address checksum (R131), the button masks of
10_state (R23, R40) and the transmitted button word (R137); the replies that read no memory: INFO, POLL and RESET
(R136, R137, R140). -/

namespace Sys2Proof.Machine

/-! ### The address checksum -/

/-- One weight of the checksum folded in. -/
def addrCkStep (a : Half) (c : BitVec 5) (w : Nat × BitVec 5) : BitVec 5 := if a.getLsbD w.1 then c ^^^ w.2 else c

theorem addrCk_eq (a : Half) : addrCk a = addrWeights.foldl (addrCkStep a) 0 := rfl

theorem addrCkStep_xor (a b : Half) (c d : BitVec 5) (w : Nat × BitVec 5) :
    addrCkStep (a ^^^ b) (c ^^^ d) w = addrCkStep a c w ^^^ addrCkStep b d w := by
  have twice : c ^^^ d = c ^^^ w.2 ^^^ (d ^^^ w.2) := by
    rw [BitVec.xor_assoc, ← BitVec.xor_assoc w.2, BitVec.xor_comm w.2 d, BitVec.xor_assoc d, BitVec.xor_self,
      BitVec.xor_zero]
  simp only [addrCkStep, BitVec.getLsbD_xor]
  cases a.getLsbD w.1 <;> cases b.getLsbD w.1
  · rfl
  · exact BitVec.xor_assoc c d w.2
  · show c ^^^ d ^^^ w.2 = c ^^^ w.2 ^^^ d
    rw [BitVec.xor_assoc, BitVec.xor_comm d, BitVec.xor_assoc]
  · exact twice

theorem foldl_addrCkStep_xor (ws : List (Nat × BitVec 5)) (a b : Half) (c d : BitVec 5) :
    ws.foldl (addrCkStep (a ^^^ b)) (c ^^^ d) = ws.foldl (addrCkStep a) c ^^^ ws.foldl (addrCkStep b) d := by
  induction ws generalizing c d with
  | nil => rfl
  | cons w ws ih => rw [List.foldl_cons, List.foldl_cons, List.foldl_cons, addrCkStep_xor, ih]

theorem addrCk_xor (a b : Half) : addrCk (a ^^^ b) = addrCk a ^^^ addrCk b := foldl_addrCkStep_xor addrWeights a b 0 0

/-- Every weight belongs to one of the bits 15:5. -/
theorem addrWeights_high : ∀ w ∈ addrWeights, (0xFFE0 : Half).getLsbD w.1 = true := by decide

theorem addrCk_ignores_low (a : Half) : addrCk (a &&& 0xFFE0) = addrCk a := by
  rw [addrCk_eq, addrCk_eq]
  refine List.foldl_ext _ _ _ fun c w hw => ?_
  rw [addrCkStep, addrCkStep, BitVec.getLsbD_and, addrWeights_high w hw, Bool.and_true]

/-- Settles O5 (R131): linearity by induction over the weights, which all lie above bit 4. -/
theorem addressChecksumIsLinear : Obligations.AddressChecksumIsLinear :=
  ⟨addrCk_xor, addrCk_ignores_low, by decide⟩

/-! ### The button masks -/

theorem getLsbD_foldl_or (l : List Half) (m : Half) (k : Nat) :
    (l.foldl (fun m b => m ||| b) m).getLsbD k = (m.getLsbD k || l.any fun b => b.getLsbD k) := by
  induction l generalizing m with
  | nil => simp
  | cons b l ih => rw [List.foldl_cons, ih, BitVec.getLsbD_or, List.any_cons, Bool.or_assoc]

theorem getLsbD_maskAll (p : Params) (k : Nat) : (maskAll p).getLsbD k = p.btnMask.any fun b => b.getLsbD k := by
  rw [maskAll, getLsbD_foldl_or]
  simp

theorem withinMasks_iff (p : Params) (b : Half) :
    withinMasks p b ↔ ∀ k, b.getLsbD k = true → (maskAll p).getLsbD k = true := by
  constructor
  · intro h k hk
    have bound : k < 16 := BitVec.lt_of_getLsbD hk
    have bit := congrArg (fun c : Half => c.getLsbD k) h
    simpa [hk, bound] using bit
  · intro h
    refine BitVec.eq_of_getLsbD_eq fun k hk => ?_
    cases hb : b.getLsbD k
    · simp [hb]
    · simp [h k hb]

/-- A button mask is one of the listed ones, or nothing. -/
theorem btnMask_cases (p : Params) (i : Nat) : btnMask p i ∈ p.btnMask ∨ btnMask p i = 0 := by
  rw [btnMask, List.getD_eq_getElem?_getD]
  by_cases hi : i < p.btnMask.length
  · left
    rw [List.getElem?_eq_getElem hi]
    exact List.getElem_mem hi
  · right
    rw [List.getElem?_eq_none (not_lt.mp hi)]
    rfl

/-- A legal layout gives no button bit 15 (R23). -/
theorem mask_bit15 {p : Params} (hp : paramsWf p = true) {m : Half} (hm : m ∈ p.btnMask) : m.getLsbD 15 = false := by
  have one_hot : ∀ k ∈ List.range 15, ((1 : Half) <<< k).getLsbD 15 = false := by decide
  simp only [paramsWf, Bool.and_eq_true, List.all_eq_true, List.any_eq_true, beq_iff_eq] at hp
  obtain ⟨⟨⟨⟨⟨⟨⟨⟨⟨-, masks⟩, -⟩, -⟩, -⟩, -⟩, -⟩, -⟩, -⟩, -⟩ := hp
  obtain ⟨k, hk, rfl⟩ := masks m hm
  exact one_hot k hk

theorem btnMask_bit15 {p : Params} (hp : paramsWf p = true) (i : Nat) : (btnMask p i).getLsbD 15 = false := by
  obtain listed | nothing := btnMask_cases p i
  · exact mask_bit15 hp listed
  · rw [nothing]
    decide

theorem withinMasks_bit15 {p : Params} {b : Half} (hp : paramsWf p = true) (hb : withinMasks p b) :
    b.getLsbD 15 = false := by
  by_contra set
  have in_union := (withinMasks_iff p b).mp hb 15 (by simpa using set)
  rw [getLsbD_maskAll, List.any_eq_true] at in_union
  obtain ⟨m, hm, bit⟩ := in_union
  rw [mask_bit15 hp hm] at bit
  cases bit

/-! ### The transmitted button word -/

theorem lrsHeld_iff (p : Params) (b : Half) : lrsHeld p b = true ↔ b &&& maskLRS p = maskLRS p := beq_iff_eq

theorem getLsbD_maskSynthReset : ∀ k, k < 16 → Config.maskSynthReset.getLsbD k = decide (k = 15) := by decide

/-- Settles O12 (R137): bit 15 of a legal vector is 0 and no mask has it, so only the override sets it. -/
theorem pollWordBits : Obligations.PollWordBits := by
  intro p b hp hb
  have start15 : (maskStart p).getLsbD 15 = false := btnMask_bit15 hp _
  by_cases held : b &&& maskLRS p = maskLRS p
  · have word : pollWord p b = (b ||| Config.maskSynthReset) &&& ~~~ maskStart p :=
      if_pos ((lrsHeld_iff p b).mpr held)
    have bits : ∀ k, k < 16 → (pollWord p b).getLsbD k = ((b.getLsbD k || decide (k = 15)) && !(maskStart p).getLsbD k) := by
      intro k hk
      rw [word, BitVec.getLsbD_and, BitVec.getLsbD_or, BitVec.getLsbD_not, getLsbD_maskSynthReset k hk, decide_eq_true hk,
        Bool.true_and]
    refine ⟨⟨fun _ => held, fun _ => ?_⟩, fun k hk => ?_⟩
    · rw [bits 15 (by omega), start15]
      simp
    · rw [bits k (by omega), decide_eq_false (show k ≠ 15 by omega), decide_eq_true held, Bool.or_false, Bool.true_and]
  · have word : pollWord p b = b := if_neg (fun h => held ((lrsHeld_iff p b).mp h))
    refine ⟨⟨fun h => ?_, fun h => absurd h held⟩, fun k _ => ?_⟩
    · rw [word, withinMasks_bit15 hp hb] at h
      cases h
    · simp [word, held]

/-! ### INFO, POLL and RESET -/

/-- Settles O8 (R136). -/
theorem infoRepliesIdentityAndStatus : Obligations.InfoRepliesIdentityAndStatus := fun s =>
  ⟨identify s, exec_info_eq s, identify_replyBytes s, identify_onlyEngChanged s, identify_onlyReplyChanged s,
    fun _ => ⟨rfl, rfl⟩⟩

theorem exec_reset_eq (s : State) : exec .reset s = .next (identify (clearChecksumError s)) := rfl

theorem getLsbD_clearCrcError (b : Byte) (k : Nat) : (clearCrcError b).getLsbD k = (b.getLsbD k && decide (k ≠ 2)) := by
  have mask : ∀ k < 8, Config.stCrcError.getLsbD k = decide (k = 2) := by decide
  by_cases hk : k < 8
  · rw [clearCrcError, BitVec.getLsbD_and, BitVec.getLsbD_not, mask k hk, decide_eq_true hk, Bool.true_and, decide_not]
  · simp [BitVec.getLsbD_of_ge _ k (not_lt.mp hk)]

/-- Settles O10 (R140): the identity is built from the status already cleared. -/
theorem resetClearsCrcErrorThenIdentifies : Obligations.ResetClearsCrcErrorThenIdentifies := fun s =>
  ⟨identify (clearChecksumError s), exec_reset_eq s, identify_replyBytes (clearChecksumError s),
    getLsbD_clearCrcError s.info.status, rfl, rfl, fun _ => ⟨rfl, rfl⟩⟩

theorem exec_poll_eq (s : State) : exec .poll s = .next (setReply (pollReply s.par s.snap) s) := rfl

theorem pollWord_eq (p : Params) (b : Half) : pollWord p b =
    if b &&& maskLRS p = maskLRS p then (b ||| 0x8000) &&& ~~~ maskStart p else b := by
  rw [pollWord]
  exact if_congr (lrsHeld_iff p b) rfl rfl

/-- Settles O11 (R137): the snapshot is read into the reply and nothing is written. -/
theorem pollRepliesSnapshot : Obligations.PollRepliesSnapshot := fun s =>
  ⟨setReply (pollReply s.par s.snap) s, exec_poll_eq s,
    ⟨pollWord s.par s.snap.buttons, pollWord_eq s.par s.snap.buttons, setReply_bytes _⟩, rfl, rfl, fun _ => ⟨rfl, rfl⟩⟩

end Sys2Proof.Machine
end

section
/-! PROOFS. The pak store of 44_pak_store: `MemRead` and `MemWrite` (R243, R244), the flush and the flash port (R247,
20_memory R70 to R73), `InitPak` (R241, R242, R245), and the commands READ and WRITE built on them (40_joybus_commands
R138, R139). -/

namespace Sys2Proof.Machine

variable {s t : State}

/-- Lists of one length with the same elements are equal. -/
theorem ext_getD {l l' : List Byte} {n : Nat} (hl : l.length = n) (hl' : l'.length = n)
    (h : ∀ j, j < n → l.getD j 0 = l'.getD j 0) : l = l' := by
  refine List.ext_getElem (hl.trans hl'.symm) fun j hj hj' => ?_
  have at_j := h j (hl ▸ hj)
  rwa [List.getD_eq_getElem _ _ hj, List.getD_eq_getElem _ _ hj'] at at_j

/-! ### MemRead -/

theorem pakAccessible_iff (addr : Nat) (s : State) :
    pakAccessible addr s = true ↔ s.pak.ready = true ∧ addr < Config.pakSize := by
  rw [pakAccessible, Bool.and_eq_true, decide_eq_true_iff]

theorem pakRead_getD {j len : Nat} (addr : Nat) (s : State) (hj : j < len) :
    (pakRead addr len s).getD j 0 =
      if s.pak.ready = true ∧ addr < 32768 ∧ addr + j < 32768 then s.pakByte (addr + j) else 0 := by
  rw [pakRead]
  by_cases acc : pakAccessible addr s = true
  · obtain ⟨ready, bound⟩ := (pakAccessible_iff addr s).mp acc
    rw [Config.pakSize] at bound
    rw [if_pos acc, Config.pakSize]
    by_cases inside : addr + j < 32768
    · rw [if_pos ⟨ready, bound, inside⟩, List.getD_append _ _ _ _ (by rw [memBytes_length]; omega),
        memBytes_getD (by omega), State.pakByte]
    · rw [if_neg (fun h => inside h.2.2), List.getD_append_right _ _ _ _ (by rw [memBytes_length]; omega), memBytes_length,
        List.getD_replicate _ (by omega)]
  · rw [if_neg acc, List.getD_replicate _ hj, if_neg]
    rintro ⟨ready, bound, -⟩
    exact acc ((pakAccessible_iff addr s).mpr ⟨ready, bound⟩)

/-- Settles O19 (R243). -/
theorem pakReadTruncatesWithZeros : Obligations.PakReadTruncatesWithZeros := fun addr len s =>
  ⟨pakRead_length addr len, fun _ hj => pakRead_getD addr s hj⟩

/-- `MemRead` depends on the buffer and `PAK.ready` only. -/
theorem pakRead_congr (addr len : Nat) (hbuf : s.pak.buf = t.pak.buf) (hready : s.pak.ready = t.pak.ready) :
    pakRead addr len s = pakRead addr len t := by
  rw [pakRead, pakRead, pakAccessible, pakAccessible, hbuf, hready]

/-! ### The flush -/

theorem flush_buf (s : State) : (flush s).pak.buf = s.pak.buf := rfl

theorem flush_mirror (h : Memory.wf Config.pakFill s.pak.buf = true) {a : Nat} (ha : a < Config.pakSize) :
    (flush s).flashByte a = (flush s).pakByte a := pakToFlash_read h ha

/-! ### MemWrite -/

theorem pakWrite_refused {addr : Nat} (h : ¬(s.pak.ready = true ∧ addr < 32768)) (len : Nat) (data : List Byte) :
    pakWrite addr len data s = s := by
  rw [pakWrite, if_neg]
  exact fun acc => h ((pakAccessible_iff addr s).mp acc)

/-- Before the coalescing time is over the write is the commit alone. -/
theorem pakWrite_early {addr : Nat} (h : s.pak.ready = true ∧ addr < 32768) (early : s.time - s.pak.lastFlush < 1000000)
    (len : Nat) (data : List Byte) : pakWrite addr len data s = pakCommit addr len data s := by
  have not_due : ¬ coalesceDue s = true := by
    rw [coalesceDue, decide_eq_true_iff, Config.coalesceUs]
    omega
  rw [pakWrite, if_pos ((pakAccessible_iff addr s).mpr h), if_neg not_due]

/-- After it the write is the commit and a flush. -/
theorem pakWrite_late {addr : Nat} (h : s.pak.ready = true ∧ addr < 32768) (late : 1000000 ≤ s.time - s.pak.lastFlush)
    (len : Nat) (data : List Byte) : pakWrite addr len data s = flush (pakCommit addr len data s) := by
  have due : coalesceDue s = true := decide_eq_true late
  rw [pakWrite, if_pos ((pakAccessible_iff addr s).mpr h), if_pos due]

theorem pakWrite_ready (addr len : Nat) (data : List Byte) : (pakWrite addr len data s).pak.ready = s.pak.ready := by
  obtain ⟨-, h⟩ | ⟨-, -, h⟩ | ⟨-, -, h⟩ := pakWrite_cases (s := s) addr len data <;> rw [h] <;> rfl

/-- The buffer after a write does not depend on whether it was flushed. -/
theorem pakWrite_buf (addr len : Nat) (data : List Byte) : (pakWrite addr len data s).pak.buf =
    if s.pak.ready = true ∧ addr < 32768
    then memWrite Config.pakFill s.pak.buf addr (data.take (min len (Config.pakSize - addr))) else s.pak.buf := by
  by_cases acc : s.pak.ready = true ∧ addr < 32768
  · rw [if_pos acc]
    obtain early | late := Nat.lt_or_ge (s.time - s.pak.lastFlush) 1000000
    · rw [pakWrite_early acc early]
      rfl
    · rw [pakWrite_late acc late]
      rfl
  · rw [if_neg acc, pakWrite_refused acc]

theorem pakWrite_wf (h : Memory.wf Config.pakFill s.pak.buf = true) (addr len : Nat) (data : List Byte) :
    Memory.wf Config.pakFill (pakWrite addr len data s).pak.buf = true := by
  rw [pakWrite_buf]
  split
  · next acc =>
    refine memWf_memWrite h ?_
    rw [List.length_take, Config.pakSize]
    omega
  · exact h

theorem pakWrite_pakByte (h : Memory.wf Config.pakFill s.pak.buf = true) {len : Nat} {data : List Byte}
    (hlen : len ≤ data.length) (addr a : Nat) : (pakWrite addr len data s).pakByte a =
      if s.pak.ready = true ∧ addr < 32768 ∧ addr ≤ a ∧ a < addr + len ∧ a < 32768
      then data.getD (a - addr) 0 else s.pakByte a := by
  rw [State.pakByte, pakWrite_buf]
  by_cases acc : s.pak.ready = true ∧ addr < 32768
  · have count : (data.take (min len (Config.pakSize - addr))).length = min len (32768 - addr) := by
      rw [List.length_take, Config.pakSize]
      omega
    rw [if_pos acc, memRead_memWrite h, count]
    by_cases window : addr ≤ a ∧ a < addr + len ∧ a < 32768
    · rw [if_pos (by omega), if_pos ⟨acc.1, acc.2, window⟩, List.getD_eq_getElem?_getD, List.getElem?_take,
        if_pos (by rw [Config.pakSize]; omega), ← List.getD_eq_getElem?_getD]
      rfl
    · rw [if_neg (by omega), if_neg (fun h => window h.2.2)]
      rfl
  · rw [if_neg acc, if_neg (fun h => acc ⟨h.1, h.2.1⟩)]
    rfl

/-- What a write that is not refused leaves of the flush state, before the coalescing time is over. -/
theorem pakWrite_early_store {addr : Nat} (h : s.pak.ready = true ∧ addr < 32768)
    (early : s.time - s.pak.lastFlush < 1000000) (len : Nat) (data : List Byte) :
    (pakWrite addr len data s).pak.dirty = true ∧ (pakWrite addr len data s).pak.lastFlush = s.pak.lastFlush
      ∧ (pakWrite addr len data s).flash = s.flash ∧ (pakWrite addr len data s).hold = s.hold := by
  rw [pakWrite_early h early]
  exact ⟨rfl, rfl, rfl, rfl⟩

/-- And after it. -/
theorem pakWrite_late_store {addr : Nat} (h : s.pak.ready = true ∧ addr < 32768)
    (late : 1000000 ≤ s.time - s.pak.lastFlush) (wf : Memory.wf Config.pakFill s.pak.buf = true) (len : Nat)
    (data : List Byte) :
    (pakWrite addr len data s).pak.dirty = false ∧ (pakWrite addr len data s).pak.lastFlush = s.time
      ∧ (∀ a, a < 32768 → (pakWrite addr len data s).flashByte a = (pakWrite addr len data s).pakByte a)
      ∧ (pakWrite addr len data s).hold =
        { flushEnd := s.time + flushTimeNext s, draws := s.hold.draws + 1, times := s.hold.times.tail } := by
  have committed_wf := pakWrite_wf wf addr len data
  rw [pakWrite_late h late, flush_buf] at committed_wf
  rw [pakWrite_late h late]
  exact ⟨rfl, rfl, fun _ => flush_mirror committed_wf, rfl⟩

/-- Settles O20 (R244). -/
theorem pakWriteChangesOnlyItsWindow : Obligations.PakWriteChangesOnlyItsWindow := fun addr len data _ hlen wf =>
  ⟨pakWrite_wf wf addr len data, pakWrite_pakByte wf hlen addr, fun refused => pakWrite_refused refused len data,
    fun acc early => pakWrite_early_store acc early len data, fun acc late => pakWrite_late_store acc late wf len data,
    pakWrite_ready addr len data, pakWrite_frame addr len data⟩

/-! ### The flash port -/

/-- The flash port with the first `p` pages of the buffer programmed and the others fresh (20_memory R72, R73). -/
structure Programmed (buf : Memory) (p : Nat) (f : FlashPort) : Prop where
  wf : Memory.wf Config.flashFill f.mem = true
  read : ∀ a, memRead Config.flashFill f.mem a = if a < 256 * p then memRead Config.pakFill buf a else Config.flashFill
  fresh : f.fresh = List.range' p (128 - p)

theorem programmed_erase (buf : Memory) (f : FlashPort) : Programmed buf 0 (flashEraseRegion f) where
  wf := rfl
  read _ := rfl
  fresh := List.range_eq_range'

theorem programmed_page {buf : Memory} {p : Nat} {f : FlashPort} (h : Programmed buf p f) (hp : p < 128) :
    ∃ f', flashProgramPage p (memBytes Config.pakFill buf (Config.flashPageSize * p) Config.flashPageSize) f = .ok f'
      ∧ Programmed buf (p + 1) f' := by
  obtain ⟨wf, read, fresh⟩ := h
  have pages : 128 - p = 128 - (p + 1) + 1 := by omega
  have fresh' : f.fresh = p :: List.range' (p + 1) (128 - (p + 1)) := by rw [fresh, pages, List.range'_succ]
  refine ⟨_, if_pos ⟨by rw [fresh']; exact List.mem_cons_self, memBytes_length⟩, ?_, fun a => ?_, ?_⟩
  · refine memWf_memWrite wf ?_
    rw [memBytes_length, Config.flashPageSize, Config.pakSize]
    omega
  · rw [memRead_memWrite wf, memBytes_length, Config.flashPageSize, read]
    by_cases page : 256 * p ≤ a ∧ a < 256 * p + 256
    · rw [if_pos page, memBytes_getD (by omega), if_pos (by omega), Nat.add_sub_cancel' page.1]
    · rw [if_neg page]
      exact if_congr (by omega) rfl rfl
  · show f.fresh.erase p = _
    rw [fresh', List.erase_cons_head]

theorem programmed_pages {buf : Memory} {n p : Nat} {f : FlashPort} (h : Programmed buf p f) (hn : p + n ≤ 128) :
    ∃ f', flashProgramPages buf (List.range' p n) f = .ok f' ∧ Programmed buf (p + n) f' := by
  induction n generalizing p f with
  | zero => exact ⟨f, rfl, h⟩
  | succ n ih =>
    obtain ⟨g, hg, programmed⟩ := programmed_page h (by omega)
    obtain ⟨f', hf', done⟩ := ih programmed (by omega)
    refine ⟨f', ?_, by rwa [Nat.add_right_comm, Nat.add_assoc] at done⟩
    rw [List.range'_succ, flashProgramPages, hg]
    exact hf'

/-- Settles O21 (20_memory R73): after `p` pages the flash reads as the buffer below page `p`, and canonical memories that
read alike are equal. -/
theorem flushEqualsErasePlusPages : Obligations.FlushEqualsErasePlusPages := by
  intro buf m wf
  obtain ⟨f, hf, mem_wf, read, fresh⟩ := programmed_pages (n := 128) (programmed_erase buf ⟨m, []⟩) (by omega)
  have same : f.mem = pakToFlash buf := by
    refine mem_ext mem_wf (pakToFlash_wf buf) fun a => ?_
    rw [read]
    by_cases ha : a < 32768
    · rw [if_pos (by omega), pakToFlash_read wf ha]
    · rw [if_neg (by omega), memRead_above (pakToFlash_wf buf) (not_lt.mp ha)]
  have pages : List.range Config.flashPages = List.range' 0 128 := List.range_eq_range'
  have none_fresh : f.fresh = [] := fresh
  rw [flashRewrite, pages, hf, ← same, ← none_fresh]

/-! ### InitPak -/

theorem flashBlank_iff (m : Memory) : flashBlank m = true ↔ ∀ j, j < 16 → memRead Config.flashFill m j = 0xFF := by
  simp [flashBlank, flashRead, memBytes, Config.hydrateSample]

theorem formattedPak_wf : Memory.wf Config.pakFill formattedPak = true := by decide

theorem formattedPak_read (a : Nat) :
    memRead Config.pakFill formattedPak a = ([0x81, 0x80, 0x80, 0x80] : List Byte).getD a 0 := by
  rw [formattedPak, memRead_memWrite (top := Config.pakSize) rfl]
  by_cases ha : a < 4
  · exact if_pos ⟨Nat.zero_le a, by simpa [Config.pakSignature] using ha⟩
  · rw [if_neg (by simpa [Config.pakSignature] using not_lt.mp ha), List.getD_eq_default _ _ (not_lt.mp ha)]
    rfl

theorem initPak_of_uninit (h : s.eng.fsm = .uninit) : initPak s = initPakBody s := if_pos h

theorem initPak_of_started (h : s.eng.fsm ≠ .uninit) : initPak s = s := if_neg h

theorem initPakBody_ready (s : State) : (initPakBody s).pak.ready = true := rfl

theorem initPakBody_clean (s : State) : (initPakBody s).pak.dirty = false := by
  obtain ⟨-, h⟩ | ⟨-, h⟩ := initPakBody_cases (s := s) <;> rw [h] <;> rfl

theorem initPakBody_wf (s : State) : Memory.wf Config.pakFill (initPakBody s).pak.buf = true := by
  obtain ⟨-, h⟩ | ⟨-, h⟩ := initPakBody_cases (s := s) <;> rw [h]
  · exact formattedPak_wf
  · exact flashToPak_wf s.flash

theorem initPakBody_flash_wf (wf : Memory.wf Config.flashFill s.flash = true) :
    Memory.wf Config.flashFill (initPakBody s).flash = true := by
  obtain ⟨-, h⟩ | ⟨-, h⟩ := initPakBody_cases (s := s) <;> rw [h]
  · exact pakToFlash_wf formattedPak
  · exact wf

theorem initPakBody_mirror (wf : Memory.wf Config.flashFill s.flash = true) {a : Nat} (ha : a < Config.pakSize) :
    (initPakBody s).flashByte a = (initPakBody s).pakByte a := by
  obtain ⟨-, h⟩ | ⟨-, h⟩ := initPakBody_cases (s := s) <;> rw [h]
  · exact pakToFlash_read formattedPak_wf ha
  · exact (flashToPak_read wf ha).symm

/-- Settles O22 (R241, R242, R245): the two branches of `hydrate()`. -/
theorem initPakLoadsOrFormats : Obligations.InitPakLoadsOrFormats := by
  intro s uninit wf
  rw [initPak_of_uninit uninit]
  refine ⟨initPakBody_ready s, initPakBody_clean s, fun _ => initPakBody_mirror wf, fun blank => ?_, fun used => ?_,
    initPakBody_frame⟩
  · obtain ⟨-, h⟩ | ⟨used, -⟩ := initPakBody_cases (s := s)
    · rw [h]
      exact ⟨formattedPak_read, rfl, rfl⟩
    · rw [(flashBlank_iff s.flash).mpr blank] at used
      cases used
  · obtain ⟨blank, -⟩ | ⟨-, h⟩ := initPakBody_cases (s := s)
    · exact absurd ((flashBlank_iff s.flash).mp blank) used
    · rw [h]
      exact ⟨rfl, rfl, rfl⟩

/-! ### READ -/

theorem busAddr_aligned (aw : Half) : (busAddr aw).toNat % 32 = 0 := by
  have low : (aw.toNat &&& 0xFFE0) % 2 ^ 5 = aw.toNat % 2 ^ 5 &&& 0xFFE0 % 2 ^ 5 := Nat.and_mod_two_pow
  rw [busAddr, BitVec.toNat_and]
  exact low.trans (Nat.and_zero _)

theorem exec_read_of_match {aw : Half} (h : ckOk aw = true) (s : State) : exec (.read aw) s =
    .next (setReply (pakRead (busAddr aw).toNat Config.block s ++ [crc8 (pakRead (busAddr aw).toNat Config.block s)]) s) :=
  if_pos h

theorem exec_read_of_mismatch {aw : Half} (h : ckOk aw = false) (s : State) : exec (.read aw) s =
    .next (setReply (List.replicate Config.block 0 ++ [0xFF]) (raiseChecksumError s)) :=
  if_neg (by simp [h])

/-- An aligned block is inside the pak as soon as its address is. -/
theorem block_getD {j : Nat} (aw : Half) (s : State) (hj : j < 32) :
    (pakRead (busAddr aw).toNat Config.block s).getD j 0 =
      if s.pak.ready = true ∧ (busAddr aw).toNat < 32768 then s.pakByte ((busAddr aw).toNat + j) else 0 := by
  have aligned := busAddr_aligned aw
  rw [pakRead_getD _ _ (show j < Config.block from hj)]
  refine if_congr ?_ rfl rfl
  constructor
  · rintro ⟨ready, bound, -⟩
    exact ⟨ready, bound⟩
  · rintro ⟨ready, bound⟩
    exact ⟨ready, bound, by omega⟩

/-- Settles O13 (R138). -/
theorem readRepliesBlockOrFailure : Obligations.ReadRepliesBlockOrFailure := by
  intro aw s
  cases hck : ckOk aw
  · refine ⟨_, exec_read_of_mismatch hck s, fun h => absurd h (by simp), fun _ => ⟨rfl, setReply_bytes _⟩, rfl, rfl,
      fun _ => ⟨rfl, rfl⟩⟩
  · exact ⟨_, exec_read_of_match hck s, fun _ => ⟨rfl, _, pakRead_length _ _, setReply_bytes _, fun _ => block_getD aw s⟩,
      fun h => absurd h (by simp), rfl, rfl, fun _ => ⟨rfl, rfl⟩⟩

/-! ### WRITE -/

theorem exec_write_eq (aw : Half) (data : List Byte) (s : State) : exec (.write aw data) s =
    .next (setReply [writeCrc data (writeCommit aw data s)] (writeCommit aw data s)) := rfl

theorem writeCommit_of_match {aw : Half} (h : ckOk aw = true) (data : List Byte) (s : State) :
    writeCommit aw data s = pakWrite (busAddr aw).toNat Config.block data s := if_pos h

theorem writeCommit_of_mismatch {aw : Half} (h : ckOk aw = false) (data : List Byte) (s : State) :
    writeCommit aw data s = raiseChecksumError s := if_neg (by simp [h])

theorem writeCommit_status (aw : Half) (data : List Byte) (s : State) :
    (writeCommit aw data s).info.status = if ckOk aw = true then s.info.status else setCrcError s.info.status := by
  cases hck : ckOk aw
  · rw [writeCommit_of_mismatch hck, if_neg (by simp)]
    rfl
  · rw [writeCommit_of_match hck, pakWrite_info, if_pos rfl]

theorem pakRemoved_eq (s : State) : pakRemoved s = s.info.status.getLsbD 1 := by
  have bit : ∀ b : Byte, ((b &&& Config.stPakRemoved) != 0) = b.getLsbD 1 := by decide
  exact bit s.info.status

/-- `PAK_REMOVED` is not what a `ChecksumError` sets. -/
theorem setCrcError_removed : ∀ b : Byte, (setCrcError b).getLsbD 1 = b.getLsbD 1 := by decide

theorem writeCrc_writeCommit (aw : Half) (data : List Byte) (s : State) : writeCrc data (writeCommit aw data s) =
    if s.info.status.getLsbD 1 = true then crc8 data ^^^ 0xFF else crc8 data := by
  rw [writeCrc, pakRemoved_eq, writeCommit_status]
  cases ckOk aw
  · rw [if_neg Bool.false_ne_true, setCrcError_removed]
  · rw [if_pos rfl]

theorem writeCommit_ready (aw : Half) (data : List Byte) (s : State) :
    (writeCommit aw data s).pak.ready = s.pak.ready := by
  cases hck : ckOk aw
  · rw [writeCommit_of_mismatch hck]
    rfl
  · rw [writeCommit_of_match hck, pakWrite_ready]

/-- The block of a WRITE that commits, byte by byte. -/
theorem writeCommit_pakByte {data : List Byte} {s : State} (hlen : data.length = 32)
    (wf : Memory.wf Config.pakFill s.pak.buf = true) (aw : Half) (a : Nat) : (writeCommit aw data s).pakByte a =
      if ckOk aw = true ∧ s.pak.ready = true ∧ (busAddr aw).toNat < 32768
          ∧ (busAddr aw).toNat ≤ a ∧ a < (busAddr aw).toNat + 32
      then data.getD (a - (busAddr aw).toNat) 0 else s.pakByte a := by
  cases hck : ckOk aw
  · rw [writeCommit_of_mismatch hck, if_neg (by simp)]
    rfl
  · have aligned := busAddr_aligned aw
    rw [writeCommit_of_match hck, pakWrite_pakByte wf (by rw [hlen]; rfl), Config.block]
    refine if_congr ?_ rfl rfl
    constructor
    · rintro ⟨ready, bound, low, high, -⟩
      exact ⟨rfl, ready, bound, low, high⟩
    · rintro ⟨-, ready, bound, low, high⟩
      exact ⟨ready, bound, low, high, by omega⟩

/-- Settles O14 (R139). -/
theorem writeCommitsExactlyItsBlock : Obligations.WriteCommitsExactlyItsBlock := by
  intro aw data s hlen wf
  have next := exec_write_eq aw data s
  have frame := exec_frame next
  refine ⟨_, next, ?_, writeCommit_status aw data s, writeCommit_pakByte hlen wf aw, writeCommit_ready aw data s,
    frame.rest, frame.eng⟩
  rw [replyBytes, setReply_bytes, writeCrc_writeCommit]

/-- Where WRITE does not commit, the store is as before. -/
theorem writeCommit_refused {aw : Half} {s : State}
    (h : ¬(ckOk aw = true ∧ s.pak.ready = true ∧ (busAddr aw).toNat < 32768)) (data : List Byte) :
    (writeCommit aw data s).pak = s.pak ∧ (writeCommit aw data s).flash = s.flash
      ∧ (writeCommit aw data s).hold = s.hold := by
  cases hck : ckOk aw
  · rw [writeCommit_of_mismatch hck]
    exact ⟨rfl, rfl, rfl⟩
  · rw [writeCommit_of_match hck, pakWrite_refused (fun acc => h ⟨hck, acc⟩)]
    exact ⟨rfl, rfl, rfl⟩

/-- Settles O15 (R139, R244, R247). -/
theorem writeFlushesAfterOneSecond : Obligations.WriteFlushesAfterOneSecond := by
  intro aw data s hlen wf
  refine ⟨_, exec_write_eq aw data s, fun refused => writeCommit_refused refused data, ?_⟩
  rintro ⟨hck, acc⟩
  have committed := writeCommit_of_match hck data s
  refine ⟨fun early => ?_, fun late => ?_⟩
  · have store := pakWrite_early_store acc early Config.block data
    rwa [← busAddr, ← committed] at store
  · have store := pakWrite_late_store acc late wf Config.block data
    rw [← busAddr, ← committed] at store
    obtain ⟨dirty, stamp, mirror, hold⟩ := store
    exact ⟨dirty, stamp, mirror, (congrArg Hold.flushEnd hold :), (congrArg Hold.draws hold :),
      (congrArg Hold.times hold :)⟩

/-- A READ after a WRITE that commits: the data where the addresses agree, what was there before where they differ. -/
theorem pakRead_writeCommit {aw : Half} {data : List Byte} {s : State} (hlen : data.length = 32)
    (wf : Memory.wf Config.pakFill s.pak.buf = true) (ready : s.pak.ready = true) (hck : ckOk aw = true)
    (bound : (busAddr aw).toNat < 32768) (bw : Half) :
    pakRead (busAddr bw).toNat Config.block (writeCommit aw data s) =
      if busAddr bw = busAddr aw then data else pakRead (busAddr bw).toNat Config.block s := by
  have byte := writeCommit_pakByte hlen wf aw
  have aligned := busAddr_aligned aw
  have aligned' := busAddr_aligned bw
  refine ext_getD (n := 32) (pakRead_length _ _) (by split; exacts [hlen, pakRead_length _ _]) fun j hj => ?_
  rw [block_getD bw _ hj, writeCommit_ready, byte]
  by_cases same : busAddr bw = busAddr aw
  · rw [if_pos same, same, if_pos ⟨ready, bound⟩, if_pos ⟨hck, ready, bound, by omega, by omega⟩, Nat.add_sub_cancel_left]
  · have apart : (busAddr bw).toNat ≠ (busAddr aw).toNat := fun h => same (BitVec.eq_of_toNat_eq h)
    rw [if_neg same, block_getD bw s hj]
    exact if_congr Iff.rfl (if_neg (by omega)) rfl

/-- Settles O16 (20_memory R65, 44_pak_store R248): blocks are aligned, so two of them are the same or apart. -/
theorem readAfterWriteReturnsTheData : Obligations.ReadAfterWriteReturnsTheData := by
  intro aw bw data s t u v hlen wf ready hck bound hck' hwrite hread hbefore
  cases hwrite
  rw [exec_read_of_match hck'] at hread hbefore
  cases hread
  cases hbefore
  have block : pakRead (busAddr bw).toNat Config.block
      (setReply [writeCrc data (writeCommit aw data s)] (writeCommit aw data s)) = _ :=
    pakRead_writeCommit hlen wf ready hck bound bw
  rw [replyBytes, setReply_bytes, replyBytes, setReply_bytes, block]
  exact ⟨fun same => by rw [if_pos (by rwa [busAddr, busAddr])], fun apart => by rw [if_neg (by rwa [busAddr, busAddr])]⟩

/-! ### What a reply tells -/

theorem writeCommit_eng (aw : Half) (data : List Byte) (s : State) : (writeCommit aw data s).eng = s.eng :=
  (congrArg State.eng (writeCommit_frame aw data) :)

theorem writeCommit_buf (aw : Half) (data : List Byte) (s : State) : (writeCommit aw data s).pak.buf =
    if ckOk aw = true then (pakWrite (busAddr aw).toNat Config.block data s).pak.buf else s.pak.buf := by
  cases hck : ckOk aw
  · rw [writeCommit_of_mismatch hck, if_neg (by simp)]
    rfl
  · rw [writeCommit_of_match hck, if_pos rfl]

theorem info_ext {a b : Info} (h : a.status = b.status) : a = b := congrArg Info.mk h

/-- Settles O18 (60_exceptions R307): of the store a command reads the buffer and `PAK.ready` only. -/
theorem repliesTellOnlyWhatTheConsoleMaySee : Obligations.RepliesTellOnlyWhatTheConsoleMaySee := by
  intro i s s' t t' par eng snap info buf ready h h'
  have status : s.info.status = s'.info.status := congrArg Info.status info
  cases i with
  | info => cases h; cases h'; exact ⟨by simp [identify, setReply_eq, eng, info], info, buf, ready⟩
  | unknown cmd => cases h; cases h'; exact ⟨by simp [identify, setReply_eq, eng, info], info, buf, ready⟩
  | poll => cases h; cases h'; exact ⟨by simp [setReply_eq, eng, par, snap], info, buf, ready⟩
  | reset =>
    cases h; cases h'
    exact ⟨by simp [identify, setReply_eq, clearChecksumError, eng, info],
      by simp [identify, setReply_eq, clearChecksumError, status], buf, ready⟩
  | read aw =>
    have block := pakRead_congr (busAddr aw).toNat Config.block buf ready
    cases hck : ckOk aw
    · rw [exec_read_of_mismatch hck] at h h'
      cases h; cases h'
      exact ⟨by simp [setReply_eq, raiseChecksumError, eng], by simp [setReply_eq, raiseChecksumError, status], buf, ready⟩
    · rw [exec_read_of_match hck] at h h'
      cases h; cases h'
      exact ⟨by simp [setReply_eq, block, eng], info, buf, ready⟩
  | write aw data =>
    cases h; cases h'
    refine ⟨?_, info_ext ?_, ?_, ?_⟩
    · simp [setReply_eq, writeCrc_writeCommit, writeCommit_eng, eng, status]
    · simp only [setReply_eq, State.withEng_info, writeCommit_status, status]
    · simp only [setReply_eq, State.withEng_pak, writeCommit_buf, pakWrite_buf, buf, ready]
    · simp only [setReply_eq, State.withEng_pak, writeCommit_ready, ready]

end Sys2Proof.Machine
end

section
/-! PROOFS. One microsecond of a started engine (41_bit_transceiver R171 to R184): what the engine makes of each of its
states, what the line does, and that the other agents leave both alone. -/

namespace Sys2Proof.Machine

variable {s t u v : State} {p : Params} {e : Eng} {now flushEnd : Nat} {sampled : Bool}

/-! ### The engine in each of its states -/

theorem engAdvance_idle (h : e.fsm = .idle) : engAdvance p flushEnd now sampled e = rxStart now sampled e := by
  rw [engAdvance, h]

theorem engAdvance_rxReq (h : e.fsm = .rxReq) : engAdvance p flushEnd now sampled e = rxStep p now sampled e := by
  rw [engAdvance, h]

theorem engAdvance_stopWait (h : e.fsm = .stopWait) : engAdvance p flushEnd now sampled e =
    if requestEnd e + p.stopWait ≤ now + 1 then { e with fsm := .dead, dir := .output } else e := by
  rw [engAdvance, h]

theorem engAdvance_dead (h : e.fsm = .dead) : engAdvance p flushEnd now sampled e =
    if execTime p e ≤ now + 1 then { e with fsm := .exec } else e := by
  rw [engAdvance, h]

theorem engAdvance_exec (h : e.fsm = .exec) : engAdvance p flushEnd now sampled e = e := by
  rw [engAdvance, h]

theorem engAdvance_flushing (h : e.fsm = .flushing) : engAdvance p flushEnd now sampled e = flushStep flushEnd now e := by
  rw [engAdvance, h]

theorem engAdvance_txReply (h : e.fsm = .txReply) : engAdvance p flushEnd now sampled e = txStep now e := by
  rw [engAdvance, h]

theorem engAdvance_txStop (h : e.fsm = .txStop) : engAdvance p flushEnd now sampled e =
    if replyEnd e + symbolTime .controllerStop ≤ now + 1 then { e with fsm := .idle, dir := .input } else e := by
  rw [engAdvance, h]

theorem rxSample_fsm (now : Nat) (sampled : Bool) (e : Eng) : (rxSample now sampled e).fsm = e.fsm := by
  rw [rxSample]
  split <;> rfl

theorem rxEnd_fsm (p : Params) (e : Eng) :
    (rxEnd p e).fsm = e.fsm ∨ (rxEnd p e).fsm = .dead ∨ (rxEnd p e).fsm = .stopWait := by
  rw [rxEnd]
  split_ifs
  · exact .inr (.inl rfl)
  · exact .inr (.inr rfl)
  · exact .inl rfl

/-- A started engine stays started: no clock and no level brings it back to `Uninit` or to `Fatal`. -/
theorem engAdvance_started (h : e.fsm ≠ .uninit ∧ e.fsm ≠ .fatal) :
    (engAdvance p flushEnd now sampled e).fsm ≠ .uninit ∧ (engAdvance p flushEnd now sampled e).fsm ≠ .fatal := by
  cases hf : e.fsm with
  | uninit => exact absurd hf h.1
  | fatal => exact absurd hf h.2
  | idle =>
    rw [engAdvance_idle hf]
    obtain ⟨-, hr⟩ | ⟨-, hr⟩ := rxStart_cases now sampled e <;> rw [hr]
    · exact ⟨by simp, by simp⟩
    · exact h
  | rxReq =>
    rw [engAdvance_rxReq hf, rxStep]
    split
    · have stored : (rxStore (rxSample now sampled e)).fsm = .rxReq := (rxSample_fsm now sampled e).trans hf
      obtain hr | hr | hr := rxEnd_fsm p (rxStore (rxSample now sampled e)) <;> rw [hr]
      · simp [stored]
      · simp
      · simp
    · rwa [rxSample_fsm]
  | stopWait =>
    rw [engAdvance_stopWait hf]
    split
    · exact ⟨by simp, by simp⟩
    · exact h
  | dead =>
    rw [engAdvance_dead hf]
    split
    · exact ⟨by simp, by simp⟩
    · exact h
  | exec => rwa [engAdvance_exec hf]
  | flushing =>
    rw [engAdvance_flushing hf]
    obtain ⟨-, hr⟩ | ⟨-, hr⟩ := flushStep_cases flushEnd now e <;> rw [hr]
    · exact h
    · exact ⟨by simp, by simp⟩
  | txReply =>
    rw [engAdvance_txReply hf, txStep]
    dsimp only
    split <;> exact ⟨by simp, by simp⟩
  | txStop =>
    rw [engAdvance_txStop hf]
    split
    · exact ⟨by simp, by simp⟩
    · exact h

/-- The line sample touches `ENG.line_q` alone. -/
theorem engSampleLine_eq (sampled : Bool) (e : Eng) : engSampleLine sampled e =
    { e with lineQ := if e.fsm = .uninit ∨ e.fsm = .fatal then e.lineQ else sampled } := by
  rw [engSampleLine]
  split <;> rfl

@[simp] theorem engSampleLine_fsm (sampled : Bool) (e : Eng) : (engSampleLine sampled e).fsm = e.fsm := by
  rw [engSampleLine_eq]

@[simp] theorem engSampleLine_txStart (sampled : Bool) (e : Eng) : (engSampleLine sampled e).txStart = e.txStart := by
  rw [engSampleLine_eq]

@[simp] theorem engSampleLine_txcount (sampled : Bool) (e : Eng) : (engSampleLine sampled e).txcount = e.txcount := by
  rw [engSampleLine_eq]

@[simp] theorem engSampleLine_dir (sampled : Bool) (e : Eng) : (engSampleLine sampled e).dir = e.dir := by
  rw [engSampleLine_eq]

theorem engSampleLine_of_started (h : e.fsm ≠ .uninit ∧ e.fsm ≠ .fatal) (sampled : Bool) :
    engSampleLine sampled e = { e with lineQ := sampled } := by
  rw [engSampleLine, if_neg (by simp [h.1, h.2])]

/-- A microsecond never takes the engine out of or into `Uninit`. -/
theorem engNext_ne_uninit (h : e.fsm ≠ .uninit) :
    (engSampleLine sampled (engAdvance p flushEnd now sampled e)).fsm ≠ .uninit := by
  rw [engSampleLine_fsm]
  by_cases fatal : e.fsm = .fatal
  · rwa [engAdvance_of_not_started (.inr fatal)]
  · exact (engAdvance_started ⟨h, fatal⟩).1

/-! ### What the block drives -/

theorem joyDriveLow_congr (heng : s.eng = t.eng) (htime : s.time = t.time) : joyDriveLow s = joyDriveLow t := by
  rw [joyDriveLow, joyDriveLow, heng, htime]

theorem joyDriveLow_of_input (h : s.eng.dir = .input) : joyDriveLow s = false := by
  rw [joyDriveLow, h]
  rfl

/-- Only `TxReply` and `TxStop` pull the line (R180). -/
theorem joyDriveLow_of_silent (hr : s.eng.fsm ≠ .txReply) (hs : s.eng.fsm ≠ .txStop) : joyDriveLow s = false := by
  rw [joyDriveLow, Bool.and_eq_false_iff]
  right
  cases hf : s.eng.fsm with
  | txReply => exact absurd hf hr
  | txStop => exact absurd hf hs
  | uninit => rfl
  | fatal => rfl
  | idle => rfl
  | rxReq => rfl
  | stopWait => rfl
  | dead => rfl
  | exec => rfl
  | flushing => rfl

theorem joyDriveLow_txReply (hf : s.eng.fsm = .txReply) (hd : s.eng.dir = .output) : joyDriveLow s =
    decide ((s.time - s.eng.txStart) % Config.tBit
      < symbolLow (.bit (frameBit s.eng.reply ((s.time - s.eng.txStart) / Config.tBit)))) := by
  rw [joyDriveLow, hf, hd, decide_eq_true rfl, Bool.true_and]

theorem joyDriveLow_txStop (hf : s.eng.fsm = .txStop) (hd : s.eng.dir = .output) : joyDriveLow s =
    decide (s.time - s.eng.txStart - Config.tByte * s.eng.nreply < symbolLow .controllerStop) := by
  rw [joyDriveLow, hf, hd, decide_eq_true rfl, Bool.true_and]

theorem symbolLow_pos (y : Symbol) : 0 < symbolLow y := by
  match y with
  | .bit false => decide
  | .bit true => decide
  | .consoleStop => decide
  | .controllerStop => decide

/-! ### The turn of a started engine -/

/-- What a microsecond leaves of the engine, the line and the store, `v` being the state after the command phase. -/
structure EngineTurn (v t : State) : Prop where
  time : t.time = v.time + 1
  par : t.par = v.par
  pins : t.pins = v.pins
  inputs : t.env.inputs = v.env.inputs
  wire : t.wire = { driveLow := joyDriveLow v, level := joyIn v }
  eng : t.eng = engSampleLine (joyIn v) (engAdvance v.par v.hold.flushEnd v.time (joyIn v) v.eng)
  pak : t.pak = v.pak
  flash : t.flash = v.flash
  hold : t.hold = v.hold

/-- The agents after a started engine change none of it. -/
theorem engineTurn (h : v.eng.fsm ≠ .uninit) (inputs : Inputs) : EngineTurn v (microAfter inputs (linePhase v)) := by
  have frame := microAfter_frame (s := linePhase v) inputs
  have started : (linePhase v).eng.fsm ≠ .uninit := engNext_ne_uninit h
  exact ⟨rfl, frame.par, frame.pins, frame.inputs, frame.wire, frame.eng started, frame.pak started, frame.flash started,
    frame.hold started⟩

/-- What the agents before a started engine leave as it was. -/
structure StartedBefore (s v : State) : Prop where
  time : v.time = s.time
  par : v.par = s.par
  pins : v.pins = (currentInputs s).pins
  inputs : v.env.inputs = s.env.inputs.tail
  eng : v.eng = s.eng
  pak : v.pak = s.pak
  flash : v.flash = s.flash
  hold : v.hold = s.hold

theorem microBefore_started (h : s.eng.fsm ≠ .uninit) : StartedBefore s (microBefore s) := by
  have frame := microBefore_frame (s := s)
  exact ⟨frame.time, frame.par, frame.pins, frame.inputs, frame.eng h, frame.pak h, frame.flash h, frame.hold h⟩

theorem StartedBefore.drive (h : StartedBefore s v) : joyDriveLow v = joyDriveLow s := joyDriveLow_congr h.eng h.time

theorem StartedBefore.level (h : StartedBefore s v) : joyIn v = !(joyDriveLow s || (currentInputs s).pins.consoleLow) := by
  rw [joyIn, h.drive, h.pins]

theorem StartedBefore.accessible (h : StartedBefore s v) (addr : Nat) : pakAccessible addr v = pakAccessible addr s := by
  rw [pakAccessible, pakAccessible, h.pak]

theorem StartedBefore.coalesce (h : StartedBefore s v) : coalesceDue v = coalesceDue s := by
  rw [coalesceDue, coalesceDue, h.time, h.pak]

theorem StartedBefore.flushTime (h : StartedBefore s v) : flushTimeNext v = flushTimeNext s := by
  rw [flushTimeNext, flushTimeNext, h.hold]

/-- Outside `Exec` a microsecond is the turn of the engine from where it stands. -/
theorem step_of_started (hu : s.eng.fsm ≠ .uninit) (he : s.eng.fsm ≠ .exec) (hr : (currentInputs s).rst = false)
    (ht : s.time + 1 < Config.timeLimit) :
    ∃ t, step s = .next t ∧ EngineTurn (microBefore s) t ∧ StartedBefore s (microBefore s) := by
  have before := microBefore_started hu
  refine ⟨_, ?_, engineTurn (by rwa [before.eng]) (currentInputs s), before⟩
  rw [step_micro hr ht, micro, engineAct_of_ne_exec (by rwa [before.eng]), andThen_next]

theorem startReply_ne_uninit (s t : State) : (startReply s t).eng.fsm ≠ .uninit := by
  obtain ⟨-, -, h⟩ | ⟨-, h⟩ := startReply_cases s t <;> rw [h] <;> simp

/-- In `Exec` a microsecond is the decoded command, the start of its reply, and the turn of the engine from there. -/
theorem step_of_exec {i : Instr} {rest : List Byte} (he : s.eng.fsm = .exec) (hd : decode s.eng.req = .ok i rest)
    (hr : (currentInputs s).rst = false) (ht : s.time + 1 < Config.timeLimit) :
    ∃ u, exec i (microBefore s) = .next u ∧ StartedBefore s (microBefore s)
      ∧ step s = .next (microAfter (currentInputs s) (linePhase (startReply (microBefore s) u)))
      ∧ EngineTurn (startReply (microBefore s) u)
        (microAfter (currentInputs s) (linePhase (startReply (microBefore s) u))) := by
  have before := microBefore_started (s := s) (by simp [he])
  obtain ⟨u, hu⟩ := exec_next i (microBefore s)
  refine ⟨u, hu, before, ?_, engineTurn (startReply_ne_uninit _ _) _⟩
  rw [step_micro hr ht, micro, engineAct_of_exec (by rw [before.eng, he]) (by rw [before.eng]; exact hd) hu, andThen_next]

/-- Settles O36 (40_joybus_commands R135): what decodes is well-formed, and the agents before the engine leave `ENG`, the pak
and the flash. -/
theorem stepRunsTheDecodedCommand : Obligations.StepRunsTheDecodedCommand := by
  intro s i rest hr ht he hd
  obtain ⟨u, hu, before, next, -⟩ := step_of_exec he hd hr ht
  exact ⟨(decode_cases hd).1, before.eng, before.pak, before.flash, before.time, u, hu, next⟩

/-- Settles O33 (60_exceptions R296): `Fatal` is a state without advance, line sample or drive. -/
theorem fatalIsLeftOnlyByRst : Obligations.FatalIsLeftOnlyByRst := by
  intro s fatal hr ht
  obtain ⟨t, next, turn, before⟩ := step_of_started (by simp [fatal]) (by simp [fatal]) hr ht
  have same : t.eng = s.eng := by
    rw [turn.eng, before.eng, engAdvance_of_not_started (.inr fatal), engSampleLine_of_not_started (.inr fatal)]
  refine ⟨t, next, same, ?_, ?_, turn.pak.trans before.pak, turn.flash.trans before.flash⟩
  · rw [fatalOut, same, fatal]
    rfl
  · rw [turn.wire, before.drive]
    exact joyDriveLow_of_not_started (.inr fatal)

/-- Settles O41 (R172): Idle drives nothing, so the level is the console's. -/
theorem fallingEdgeStartsTheExchange : Obligations.FallingEdgeStartsTheExchange := by
  intro s idle hr ht
  obtain ⟨t, next, turn, before⟩ := step_of_started (by simp [idle]) (by simp [idle]) hr ht
  have released : joyDriveLow s = false := joyDriveLow_of_silent (by simp [idle]) (by simp [idle])
  have level := before.level
  rw [released, Bool.false_or] at level
  refine ⟨t, next, by rw [turn.wire, before.drive, released], ?_⟩
  rw [turn.eng, before.eng, before.time, level, engAdvance_idle idle]
  obtain ⟨edge, hs⟩ | ⟨quiet, hs⟩ := rxStart_cases s.time (!(currentInputs s).pins.consoleLow) s.eng <;> rw [hs]
  · rw [if_pos (by simpa using edge), engSampleLine_of_started (by simp), edge.2]
  · rw [if_neg (by simpa using quiet), engSampleLine_of_started (by simp [idle])]

/-! ### The command's microsecond -/

/-- What a command does to the flush record: nothing, or a flush by a WRITE that is accepted late enough. -/
theorem exec_flush_cases {i : Instr} (h : exec i s = .next t) :
    t.hold = s.hold
    ∨ ∃ aw data, i = .write aw data ∧ ckOk aw = true ∧ pakAccessible (busAddr aw).toNat s = true ∧ coalesceDue s = true
        ∧ t.hold = { flushEnd := s.time + flushTimeNext s, draws := s.hold.draws + 1, times := s.hold.times.tail } := by
  cases i with
  | info => cases h; exact .inl rfl
  | poll => cases h; exact .inl rfl
  | reset => cases h; exact .inl rfl
  | unknown cmd => cases h; exact .inl rfl
  | read aw =>
    cases hck : ckOk aw
    · rw [exec_read_of_mismatch hck] at h
      cases h
      exact .inl rfl
    · rw [exec_read_of_match hck] at h
      cases h
      exact .inl rfl
  | write aw data =>
    cases h
    rw [setReply_eq, State.withEng_hold]
    cases hck : ckOk aw
    · rw [writeCommit_of_mismatch hck]
      exact .inl rfl
    · rw [writeCommit_of_match hck]
      obtain ⟨-, hw⟩ | ⟨-, -, hw⟩ | ⟨acc, due, hw⟩ := pakWrite_cases (s := s) (busAddr aw).toNat Config.block data
      · rw [hw]
        exact .inl rfl
      · rw [hw]
        exact .inl rfl
      · exact .inr ⟨aw, data, rfl, hck, acc, due, by rw [hw]; rfl⟩

theorem exec_time {i : Instr} (h : exec i s = .next t) : t.time = s.time := (congrArg State.time (exec_frame h).rest :)

theorem exec_par {i : Instr} (h : exec i s = .next t) : t.par = s.par := (congrArg State.par (exec_frame h).rest :)

theorem exec_pins {i : Instr} (h : exec i s = .next t) : t.pins = s.pins := (congrArg State.pins (exec_frame h).rest :)

theorem exec_dir {i : Instr} (h : exec i s = .next t) : t.eng.dir = s.eng.dir := (congrArg Eng.dir (exec_frame h).eng :)

theorem startReply_dir (s t : State) : (startReply s t).eng.dir = t.eng.dir := by
  obtain ⟨-, -, h⟩ | ⟨-, h⟩ := startReply_cases s t <;> rw [h] <;> rfl

/-- The start of a reply touches `ENG` alone. -/
theorem startReply_frame (s t : State) : startReply s t = t.withEng (startReply s t).eng := by
  obtain ⟨-, -, h⟩ | ⟨-, h⟩ := startReply_cases s t <;> rw [h] <;> rfl

theorem exec_nreply_pos {i : Instr} (h : exec i s = .next t) : 1 ≤ t.eng.nreply := by
  obtain ⟨bytes, sizes, count, -⟩ := exec_reply h
  simp only [List.mem_cons, List.not_mem_nil, or_false] at sizes
  omega

/-- The microsecond in which a reply of at least one byte starts stays in `TxReply`. -/
theorem txStep_at_start (hn : 1 ≤ e.nreply) : txStep e.txStart e = { e with fsm := .txReply, txcount := 0 } := by
  have more : ¬ replyEnd e ≤ e.txStart + 1 := by
    rw [replyEnd, Config.tByte, Config.tBit]
    omega
  have none_sent : (e.txStart + 1 - e.txStart) / Config.tByte = 0 := by
    rw [Nat.add_sub_cancel_left]
    rfl
  rw [txStep, if_neg more, none_sent]

/-- A reply that starts at once: the first bit is on the line in this microsecond (waveform W2). -/
theorem reply_at_once (hv : v = u.withEng { u.eng with fsm := .txReply, txStart := u.time, txcount := 0 })
    (hdir : u.eng.dir = .output) (hn : 1 ≤ u.eng.nreply) (turn : EngineTurn v t) :
    t.eng.fsm = .txReply ∧ t.eng.txStart = u.time ∧ t.eng.txcount = 0 ∧ t.eng.dir = .output ∧ t.wire.driveLow = true := by
  have drive : joyDriveLow v = true := by
    rw [joyDriveLow_txReply (by rw [hv]; rfl) (by rw [hv]; exact hdir), hv]
    simpa using symbolLow_pos _
  have eng : engAdvance v.par v.hold.flushEnd v.time (joyIn v) v.eng = v.eng := by
    subst hv
    exact (engAdvance_txReply rfl).trans (txStep_at_start (e := { u.eng with fsm := .txReply, txStart := u.time, txcount := 0 }) hn)
  rw [turn.wire, turn.eng, eng, engSampleLine_fsm, engSampleLine_txStart, engSampleLine_txcount, engSampleLine_dir, drive, hv]
  exact ⟨rfl, rfl, rfl, hdir, rfl⟩

/-- Settles O37 (R171, waveform W2): no flush leaves the flush record, so the reply starts at once. -/
theorem replyStartsAtExecWithoutFlush : Obligations.ReplyStartsAtExecWithoutFlush := by
  intro s i rest hr ht he hdir hd no_flush
  obtain ⟨u, hu, before, next, turn⟩ := step_of_exec he hd hr ht
  have hold : u.hold = (microBefore s).hold := by
    obtain same | ⟨aw, data, hi, hck, acc, due, -⟩ := exec_flush_cases hu
    · exact same
    · rw [before.accessible] at acc
      rw [before.coalesce] at due
      exact absurd ⟨hck, acc, due⟩ (no_flush aw data hi)
  have start : startReply (microBefore s) u = u.withEng { u.eng with fsm := .txReply, txStart := u.time, txcount := 0 } := by
    obtain ⟨drawn, -, -⟩ | ⟨-, h⟩ := startReply_cases (microBefore s) u
    · exact absurd (congrArg Hold.draws hold) drawn
    · exact h
  obtain ⟨fsm, txStart, txcount, dir, drive⟩ :=
    reply_at_once start (by rw [exec_dir hu, before.eng, hdir]) (exec_nreply_pos hu) turn
  exact ⟨_, next, fsm, by rw [txStart, exec_time hu, before.time], txcount, dir, drive⟩

/-- A reply that a flush puts off: nothing is driven, and the engine is in `Flushing` unless the flush ends with this
microsecond (R184). -/
theorem reply_put_off (hv : v = u.withEng { u.eng with fsm := .flushing, txcount := 0 }) (turn : EngineTurn v t) :
    t.wire.driveLow = false ∧ t.eng.txcount = 0
      ∧ t.eng.fsm = (if u.hold.flushEnd ≤ u.time + 1 then .txReply else .flushing)
      ∧ t.eng.txStart = (if u.hold.flushEnd ≤ u.time + 1 then u.time + 1 else u.eng.txStart) := by
  have flushing : v.eng.fsm = .flushing := by rw [hv]; rfl
  have drive : joyDriveLow v = false := joyDriveLow_of_silent (by simp [flushing]) (by simp [flushing])
  rw [turn.wire, turn.eng, engSampleLine_fsm, engSampleLine_txStart, engSampleLine_txcount, engAdvance_flushing flushing]
  refine ⟨drive, ?_⟩
  obtain ⟨lasts, h⟩ | ⟨ends, h⟩ := flushStep_cases v.hold.flushEnd v.time v.eng <;> rw [h]
  · have not_over : ¬ u.hold.flushEnd ≤ u.time + 1 := by
      rw [hv] at lasts
      exact not_le.mpr lasts
    rw [if_neg not_over, if_neg not_over, hv]
    exact ⟨rfl, rfl, rfl⟩
  · have ended : u.hold.flushEnd ≤ u.time + 1 := by
      rw [hv] at ends
      exact ends
    rw [if_pos ended, if_pos ended, hv]
    exact ⟨rfl, rfl, rfl⟩

/-- What a WRITE that flushes leaves of the store (R139, 44_pak_store R247). -/
theorem exec_write_late {aw : Half} {data : List Byte} (hu : exec (.write aw data) v = .next u) (hck : ckOk aw = true)
    (acc : pakAccessible (busAddr aw).toNat v = true) (due : coalesceDue v = true)
    (wf : Memory.wf Config.pakFill v.pak.buf = true) :
    u.pak.dirty = false ∧ u.pak.lastFlush = v.time ∧ (∀ a, a < 32768 → u.flashByte a = u.pakByte a)
      ∧ u.hold = { flushEnd := v.time + flushTimeNext v, draws := v.hold.draws + 1, times := v.hold.times.tail } := by
  have store := pakWrite_late_store ((pakAccessible_iff _ _).mp acc) (of_decide_eq_true due) wf Config.block data
  rw [← writeCommit_of_match hck] at store
  rw [exec_write_eq] at hu
  cases hu
  exact store

theorem EngineTurn.store_of_startReply (turn : EngineTurn (startReply s u) t) :
    t.pak = u.pak ∧ t.flash = u.flash ∧ t.hold = u.hold := by
  have frame := startReply_frame s u
  exact ⟨turn.pak.trans (congrArg State.pak frame :), turn.flash.trans (congrArg State.flash frame :),
    turn.hold.trans (congrArg State.hold frame :)⟩

/-- Settles O38 (R184, 44_pak_store R247): the flush is in the state after the command; its end decides when the reply
starts. -/
theorem flushDelaysTheReply : Obligations.FlushDelaysTheReply := by
  intro s aw data rest hr ht he hdir wf hd hck acc due
  obtain ⟨u, hu, before, next, turn⟩ := step_of_exec he hd hr ht
  obtain ⟨dirty, stamp, mirror, hold⟩ := exec_write_late hu hck (by rwa [before.accessible]) (by rwa [before.coalesce])
    (by rwa [before.pak])
  obtain ⟨pak_kept, flash_kept, hold_kept⟩ := turn.store_of_startReply
  have time : u.time = s.time := (exec_time hu).trans before.time
  have drawn : u.hold.draws ≠ (microBefore s).hold.draws := by rw [hold]; exact Nat.succ_ne_self _
  have flushEnd : u.hold.flushEnd = s.time + flushTimeNext s := by rw [hold, before.flushTime, before.time]
  have txStart : u.eng.txStart = s.eng.txStart := by
    rw [← before.eng]
    exact (congrArg Eng.txStart (exec_frame hu).eng :)
  rw [before.time] at stamp
  refine ⟨_, next, ?_⟩
  simp only [State.flashByte, State.pakByte, pak_kept, flash_kept, hold_kept]
  have store := And.intro dirty (And.intro stamp mirror)
  refine ⟨flushEnd, ?_⟩
  obtain ⟨-, lasts, start⟩ | ⟨done, start⟩ := startReply_cases (microBefore s) u
  · obtain ⟨drive, txcount, fsm, txStart'⟩ := reply_put_off start turn
    rw [flushEnd, time] at lasts fsm txStart'
    rw [drive, txcount, fsm, txStart', txStart]
    by_cases one : flushTimeNext s ≤ 1
    · rw [if_pos one, if_pos one, if_pos (by omega), if_pos (by omega)]
      exact ⟨by omega, rfl, rfl, (decide_eq_false (by omega)).symm, store⟩
    · rw [if_neg one, if_neg one, if_neg (by omega), if_neg (by omega)]
      exact ⟨rfl, rfl, rfl, (decide_eq_false (by omega)).symm, store⟩
  · obtain same | ended := done
    · exact absurd same drawn
    · rw [flushEnd, time] at ended
      have zero : flushTimeNext s = 0 := by omega
      obtain ⟨fsm, txStart', txcount, -, drive⟩ :=
        reply_at_once start (by rw [exec_dir hu, before.eng, hdir]) (exec_nreply_pos hu) turn
      rw [if_pos (by omega), if_pos (by omega), drive, zero]
      exact ⟨by rw [txStart', time, Nat.add_zero], txcount, fsm, rfl, store⟩

/-! ### Every started state samples the line -/

/-- What a turn of a started engine does with the line (R170, R172). -/
theorem EngineTurn.line (turn : EngineTurn v t) (h : v.eng.fsm ≠ .uninit ∧ v.eng.fsm ≠ .fatal) :
    t.wire.driveLow = joyDriveLow v ∧ t.wire.level = !(t.wire.driveLow || v.pins.consoleLow) ∧ t.eng.lineQ = t.wire.level := by
  rw [turn.wire, turn.eng, engSampleLine_of_started (engAdvance_started h)]
  exact ⟨rfl, rfl, rfl⟩

theorem decode_total_of_length {bytes : List Byte} (h : bytes.length = 35) : ∃ i rest, decode bytes = .ok i rest := by
  cases bytes with
  | nil => cases h
  | cons c bytes => exact decode_total c (by simpa using h)

/-- Settles O57 (R170, R172, R180). -/
theorem lineIsSampledInEveryStartedState : Obligations.LineIsSampledInEveryStartedState := by
  intro s hu hf hr ht hlen
  by_cases he : s.eng.fsm = .exec
  · obtain ⟨i, rest, hd⟩ := decode_total_of_length hlen
    obtain ⟨u, hu', before, next, turn⟩ := step_of_exec he hd hr ht
    have started : (startReply (microBefore s) u).eng.fsm ≠ .uninit ∧ (startReply (microBefore s) u).eng.fsm ≠ .fatal := by
      obtain ⟨-, -, h⟩ | ⟨-, h⟩ := startReply_cases (microBefore s) u <;> rw [h] <;> simp
    have pins : (startReply (microBefore s) u).pins = (currentInputs s).pins := by
      rw [startReply_frame, State.withEng_pins, exec_pins hu', before.pins]
    obtain ⟨drive, level, sample⟩ := turn.line started
    rw [pins] at level
    refine ⟨_, next, level, sample, ?_⟩
    rintro (silent | input)
    · simp [he] at silent
    · rw [drive]
      exact joyDriveLow_of_input (by rw [startReply_dir, exec_dir hu', before.eng, input])
  · obtain ⟨t, next, turn, before⟩ := step_of_started hu he hr ht
    obtain ⟨drive, level, sample⟩ := turn.line (by rw [before.eng]; exact ⟨hu, hf⟩)
    rw [before.pins] at level
    refine ⟨t, next, level, sample, ?_⟩
    rw [drive, before.drive]
    rintro (silent | input)
    · refine joyDriveLow_of_silent ?_ ?_ <;> rintro h <;> simp [h] at silent
    · exact joyDriveLow_of_input input

end Sys2Proof.Machine
end

section
/-! PROOFS. The agents other than the engine (00_scope R12, 45_sampler R275 to R278): what each action is, what the actions
make of `ENG`, and the microseconds in which a flush holds them (60_exceptions R300). -/

namespace Sys2Proof.Machine

variable {s t u v : State}

/-! ### One action -/

/-- What one action of an agent can be: nothing, a waiting call, a handler that is due, or a tick that is due. -/
theorem actorAct_cases (a : Actor) (s : State) : actorAct a s = s
    ∨ (∃ op rest, s.env.calls = op :: rest ∧ orchestratorBusy s = false
        ∧ actorAct a s = hostOp op (s.withEnv { s.env with calls := rest }))
    ∨ (∃ ax, axisDue ax s = true ∧ actorAct a s = axisHandler ax s)
    ∨ (samplerDue s = true ∧ actorAct a s = samplerTick s) := by
  cases a with
  | host => exact (hostAct_cases (s := s)).imp_right .inl
  | axis ax =>
    cases due : axisDue ax s
    · exact .inl (if_neg (by simp [due]))
    · exact .inr (.inr (.inl ⟨ax, due, if_pos due⟩))
  | sampler =>
    cases due : samplerDue s
    · exact .inl (if_neg (by simp [due]))
    · exact .inr (.inr (.inr ⟨rfl, if_pos due⟩))

/-- `InitPak` touches the pak, the flash and the flush record only. -/
theorem initPak_eq (s : State) : initPak s =
    { s with pak := (initPak s).pak, flash := (initPak s).flash, hold := (initPak s).hold } := by
  by_cases h : s.eng.fsm = .uninit
  · rw [initPak_of_uninit h]
    exact initPakBody_frame
  · rw [initPak_of_started h]

/-- What `InitEngine` can make of the state (R275). -/
theorem initEngine_cases (s : State) :
    (s.eng.fsm ≠ .uninit ∧ initEngine s = s)
    ∨ (s.eng.fsm = .uninit ∧ s.pins.lineClaimOk = true
        ∧ initEngine s = s.withEng { s.eng with fsm := .idle, dir := .input })
    ∨ (s.eng.fsm = .uninit ∧ s.pins.lineClaimOk = false ∧ initEngine s = s.withEng { s.eng with fsm := .fatal }) := by
  unfold initEngine
  by_cases h : s.eng.fsm = .uninit
  · rw [if_pos h]
    cases hc : s.pins.lineClaimOk
    · exact .inr (.inr ⟨h, rfl, if_neg (by simp)⟩)
    · exact .inr (.inl ⟨h, rfl, if_pos rfl⟩)
  · exact .inl ⟨h, if_neg h⟩

/-- `InitEngine` touches `ENG` alone. -/
theorem initEngine_eq (s : State) : initEngine s = s.withEng (initEngine s).eng := by
  obtain ⟨-, h⟩ | ⟨-, -, h⟩ | ⟨-, -, h⟩ := initEngine_cases s <;> rw [h] <;> rfl

theorem not_busy_iff (hu : s.eng.fsm = .uninit) : orchestratorBusy s = false ↔ s.hold.flushEnd ≤ s.time := by
  rw [orchestratorBusy, held, decide_eq_true hu, Bool.true_and, decide_eq_false_iff_not, not_lt]

/-! ### What the agents make of ENG -/

/-- `ENG` of `t` is what `InitEngine` makes of that of `s`, with no flush in progress. -/
def engineClaimed (s t : State) : Prop :=
  s.eng.fsm = .uninit ∧ t.hold.flushEnd ≤ t.time
    ∧ (t.eng = { s.eng with fsm := .idle, dir := .input } ∨ t.eng = { s.eng with fsm := .fatal })

theorem engineClaimed_fsm (h : engineClaimed s t) : t.eng.fsm = .idle ∨ t.eng.fsm = .fatal := by
  obtain ⟨-, -, eng | eng⟩ := h <;> rw [eng]
  · exact .inl rfl
  · exact .inr rfl

theorem hostOp_eng (op : HostOp) (h : orchestratorBusy s = false) :
    (hostOp op s).eng = s.eng ∨ engineClaimed s (hostOp op s) := by
  cases op with
  | initPak => exact .inl (congrArg State.eng (initPak_eq s) :)
  | initEngine =>
    obtain ⟨-, he⟩ | ⟨hu, -, he⟩ | ⟨hu, -, he⟩ := initEngine_cases s
    · exact .inl (congrArg State.eng he)
    · rw [hostOp, he]
      exact .inr ⟨hu, (not_busy_iff hu).mp h, .inl rfl⟩
    · rw [hostOp, he]
      exact .inr ⟨hu, (not_busy_iff hu).mp h, .inr rfl⟩
  | initDecoder => exact .inl rfl
  | initButtons => exact .inl rfl
  | engineReset => exact .inl rfl
  | setCenter => exact .inl rfl

theorem actorAct_eng (a : Actor) (s : State) : (actorAct a s).eng = s.eng ∨ engineClaimed s (actorAct a s) := by
  obtain h | ⟨op, rest, -, free, h⟩ | ⟨ax, -, h⟩ | ⟨-, h⟩ := actorAct_cases a s <;> rw [h]
  · exact .inl rfl
  · exact hostOp_eng (s := s.withEnv { s.env with calls := rest }) op free
  · exact .inl (State.withAx_eng _ _ _)
  · exact .inl rfl

/-- The agents leave `ENG`, or claim the line for it once. -/
theorem actorsAct_eng (as : List Actor) (s : State) :
    (actorsAct as s).eng = s.eng ∨ engineClaimed s (actorsAct as s) := by
  induction as generalizing s with
  | nil => exact .inl rfl
  | cons a as ih =>
    have rest := ih (actorAct a s)
    obtain same | claimed := actorAct_eng a s
    · rw [engineClaimed, same] at rest
      exact rest
    · have started : (actorAct a s).eng.fsm ≠ .uninit := by
        obtain h | h := engineClaimed_fsm claimed <;> simp [h]
      have frame := actorsAct_frame as (actorAct a s)
      obtain ⟨hu, no_flush, eng⟩ := claimed
      refine .inr ⟨hu, ?_, ?_⟩
      · rw [actorsAct, frame.hold started, frame.time]
        exact no_flush
      · rw [actorsAct, frame.eng started]
        exact eng

theorem microBefore_eng (s : State) : (microBefore s).eng = s.eng ∨ engineClaimed (openMicro s) (microBefore s) :=
  actorsAct_eng _ (openMicro s)

/-- The engine's turn finds it in `Exec` only if the microsecond began there. -/
theorem microBefore_exec (h : (microBefore s).eng.fsm = .exec) : (microBefore s).eng = s.eng := by
  obtain same | claimed := microBefore_eng s
  · exact same
  · obtain idle | fatal := engineClaimed_fsm claimed
    · simp [h] at idle
    · simp [h] at fatal

theorem microBefore_exec_iff : (microBefore s).eng.fsm = .exec ↔ s.eng.fsm = .exec := by
  constructor
  · intro h
    rwa [microBefore_exec h] at h
  · intro h
    rwa [(microBefore_started (by simp [h])).eng]

/-- Settles O44 (R142): the only command phase that could refuse is one with a short request buffer. -/
theorem noStepStops : Obligations.NoStepStops := by
  intro s hlen ht
  cases hr : (currentInputs s).rst
  · by_cases he : s.eng.fsm = .exec
    · obtain ⟨i, rest, hd⟩ := decode_total_of_length hlen
      obtain ⟨u, -, -, next, -⟩ := step_of_exec he hd hr ht
      exact ⟨_, next⟩
    · have not_exec : (microBefore s).eng.fsm ≠ .exec := fun h => he (microBefore_exec_iff.mp h)
      exact ⟨_, by rw [step_micro hr ht, micro, engineAct_of_ne_exec not_exec, andThen_next]⟩
  · exact ⟨_, step_rst hr⟩

/-- Settles O35 (10_state R43, 70_reset R330). -/
theorem rstRestoresTheResetState : Obligations.RstRestoresTheResetState := fun s h =>
  ⟨resetBlock (openMicro s), step_rst h, rfl, rfl, rfl, rfl, rfl, rfl, rfl, rfl, rfl, rfl, rfl, rfl, rfl, rfl, rfl, rfl,
    rfl, rfl, rfl, rfl, rfl, rfl, rfl, rfl, rfl, rfl⟩

/-! ### Nobody is due -/

/-- No agent other than the engine would act. -/
structure AgentsIdle (s : State) : Prop where
  host : hostAct s = s
  axis : ∀ a, axisDue a s = false
  sampler : samplerDue s = false

theorem actorsAct_of_idle (h : AgentsIdle s) (as : List Actor) : actorsAct as s = s := by
  induction as with
  | nil => rfl
  | cons a as ih =>
    have same : actorAct a s = s := by
      cases a with
      | host => exact h.host
      | axis a => exact if_neg (by simp [h.axis a])
      | sampler => exact if_neg (by simp [h.sampler])
    rw [actorsAct, same, ih]

theorem hostAct_of_no_calls (h : s.env.calls = []) : hostAct s = s := by rw [hostAct, h]

theorem hostAct_of_busy (h : orchestratorBusy s = true) : hostAct s = s := by
  unfold hostAct
  split
  · rfl
  · exact if_pos h

/-- A flush in progress holds the handlers and the sampler (60_exceptions R300). -/
theorem agentsIdle_of_held (h : held s = true) (hc : hostAct s = s) : AgentsIdle s where
  host := hc
  axis a := by rw [axisDue, h, Bool.not_true, Bool.and_false, Bool.false_and]
  sampler := by rw [samplerDue, h, Bool.not_true, Bool.and_false]

/-- With nobody due outside `Exec`, the microsecond is the line phase alone. -/
theorem step_of_idle (hr : (currentInputs s).rst = false) (ht : s.time + 1 < Config.timeLimit) (he : s.eng.fsm ≠ .exec)
    (before : AgentsIdle (openMicro s)) (after : AgentsIdle (linePhase (openMicro s))) :
    step s = .next ((linePhase (openMicro s)).withTime (s.time + 1)) := by
  have opened : microBefore s = openMicro s := actorsAct_of_idle before _
  rw [step_micro hr ht, micro, opened, engineAct_of_ne_exec (s := openMicro s) he, andThen_next, microAfter,
    actorsAct_of_idle after]
  rfl

theorem openMicro_calls (s : State) : (openMicro s).env.calls = s.env.calls ++ (currentInputs s).calls := rfl

theorem openMicro_no_calls (h : s.env.calls = []) (h' : (currentInputs s).calls = []) : (openMicro s).env.calls = [] := by
  rw [openMicro_calls, h, h', List.append_nil]

/-- Settles O40 (60_exceptions R300): nobody is due before or after the line phase. -/
theorem flushInProgressFreezesTheOthers : Obligations.FlushInProgressFreezesTheOthers := by
  intro s hr hcalls hcalls' he flush ht
  have no_calls := openMicro_no_calls hcalls hcalls'
  have held : held (openMicro s) = true := decide_eq_true flush
  have before : AgentsIdle (openMicro s) := agentsIdle_of_held held (hostAct_of_no_calls no_calls)
  have after : AgentsIdle (linePhase (openMicro s)) := agentsIdle_of_held held (hostAct_of_no_calls no_calls)
  exact ⟨_, step_of_idle hr ht he before after, rfl, rfl, rfl, rfl, rfl, rfl, rfl, rfl⟩

/-! ### The microsecond in which the engine's flush starts -/

theorem exec_write_hold {aw : Half} {data : List Byte} (hu : exec (.write aw data) v = .next u) (hck : ckOk aw = true)
    (acc : pakAccessible (busAddr aw).toNat v = true) (due : coalesceDue v = true) :
    u.hold.flushEnd = v.time + flushTimeNext v := by
  rw [exec_write_eq] at hu
  cases hu
  rw [setReply_eq, State.withEng_hold, writeCommit_of_match hck,
    pakWrite_late ((pakAccessible_iff _ _).mp acc) (of_decide_eq_true due)]
  rfl

theorem engineFlushDue_of_write {aw : Half} {data rest : List Byte} (he : s.eng.fsm = .exec)
    (hd : decode s.eng.req = .ok (.write aw data) rest) :
    engineFlushDue s = (ckOk aw && pakAccessible (busAddr aw).toNat s && coalesceDue s && decide (0 < flushTimeNext s)) := by
  rw [engineFlushDue, hd, he]
  rfl

theorem actorsBefore_of_flush (h : engineFlushDue s = true) (listed : List Actor) : actorsBefore s listed = [] := if_pos h

theorem exec_env {i : Instr} (h : exec i s = .next t) : t.env = s.env := (congrArg State.env (exec_frame h).rest :)

/-- Settles O39 (60_exceptions R300, log 6): nobody acts before the flush, and the flush holds everybody after it. -/
theorem flushHoldsSamplerAndHandlersAtOnce : Obligations.FlushHoldsSamplerAndHandlersAtOnce := by
  intro s t aw data rest hr hcalls hcalls' he hd hck acc due lasts h
  obtain ⟨rst, -⟩ | ⟨-, -, w, hw, rfl⟩ := step_cases h
  · simp [hr] at rst
  have no_calls := openMicro_no_calls hcalls hcalls'
  have flush_due : engineFlushDue (openMicro s) = true := by
    have eq := engineFlushDue_of_write (s := openMicro s) he hd
    rw [eq, hck, show pakAccessible (busAddr aw).toNat (openMicro s) = true from acc,
      show coalesceDue (openMicro s) = true from due]
    exact decide_eq_true lasts
  have opened : microBefore s = openMicro s := by
    rw [microBefore, actorsBefore_of_flush flush_due]
    rfl
  rw [opened] at hw
  obtain ⟨not_exec, -⟩ | ⟨-, i, rest', u, hd', hu, rfl⟩ := engineAct_cases hw
  · exact absurd he not_exec
  have same_command : decode s.eng.req = .ok i rest' := hd'
  rw [hd] at same_command
  cases same_command
  have frame := (exec_frame hu).rest
  have start := startReply_frame (openMicro s) u
  have held_after : held (linePhase (startReply (openMicro s) u)) = true := by
    have flushEnd := exec_write_hold (v := openMicro s) hu hck acc due
    refine decide_eq_true ?_
    rw [linePhase_eq, start]
    show u.time < u.hold.flushEnd
    rw [flushEnd, exec_time hu]
    exact Nat.lt_add_of_pos_right lasts
  have calls_after : (linePhase (startReply (openMicro s) u)).env.calls = [] := by
    rw [linePhase_eq, start]
    show u.env.calls = []
    rw [exec_env hu, no_calls]
  rw [microAfter, actorsAct_of_idle (agentsIdle_of_held held_after (hostAct_of_no_calls calls_after)), linePhase_eq, start]
  exact ⟨(congrArg State.snap frame :), (congrArg State.btn frame :), (congrArg State.smpNext frame :),
    (congrArg State.axX frame :), (congrArg State.axY frame :)⟩

end Sys2Proof.Machine
end

section
/-! PROOFS. What the block reads from its pins: the stick values of 42_quadrature_decoder (R201, R204), the debounced buttons
of 43_button_matrix (R221 to R224), and the host operations that start these readers and the engine (45_sampler R275). -/

namespace Sys2Proof.Machine

/-! ### The stick values -/

theorem clamp_eq_max_min {n a b : Int} (h : a ≤ b) : clamp n a b = max a (min b n) := by
  unfold clamp
  split_ifs with low high
  · exact (max_eq_left (le_trans (min_le_right b n) low.le)).symm
  · rw [min_eq_left high.le, max_eq_right h]
  · rw [min_eq_right (not_lt.mp high), max_eq_right (not_lt.mp low)]

/-- A clamped value keeps its number in an `i8`. -/
theorem toInt_ofInt_clamp (n : Int) : (BitVec.ofInt 8 (clamp n (-128) 127)).toInt = clamp n (-128) 127 := by
  rw [clamp_eq_max_min (by omega)]
  exact BitVec.toInt_ofInt_eq_self (by omega) (by omega) (by omega)

/-- Settles O24 (R204). -/
theorem stickValueIsScaledDeadZonedClamped : Obligations.StickValueIsScaledDeadZonedClamped := by
  intro a s
  cases hqd : s.qdInit
  · rw [getAxis_of_not_initialized hqd, if_pos rfl]
    rfl
  · rw [getAxis, if_pos hqd, if_neg (by simp), axisValue, toInt_ofInt_clamp, clamp_eq_max_min (by omega)]
    split
    · rfl
    · rfl

/-- Settles O26 (R201, R202). -/
theorem initDecoderLoadsThePhases : Obligations.InitDecoderLoadsThePhases := fun _ => rfl

/-! ### The raw sample -/

/-- One input read into the sample (R222). -/
def rawStep (btnN : BitVec 14) (p : Params) (r : Half) (i : Nat) : Half :=
  if btnN.getLsbD i then r else r ||| btnMask p i

theorem rawButtons_eq (s : State) : rawButtons s = (List.range 14).foldl (rawStep s.pins.btnN s.par) 0 := rfl

theorem getLsbD_rawStep (btnN : BitVec 14) (p : Params) (r : Half) (i k : Nat) :
    (rawStep btnN p r i).getLsbD k = true ↔
      r.getLsbD k = true ∨ btnN.getLsbD i = false ∧ (btnMask p i).getLsbD k = true := by
  rw [rawStep]
  cases btnN.getLsbD i <;> simp

theorem getLsbD_foldl_rawStep (btnN : BitVec 14) (p : Params) (l : List Nat) (r : Half) (k : Nat) :
    (l.foldl (rawStep btnN p) r).getLsbD k = true ↔
      r.getLsbD k = true ∨ ∃ i ∈ l, btnN.getLsbD i = false ∧ (btnMask p i).getLsbD k = true := by
  induction l generalizing r with
  | nil => simp
  | cons i l ih =>
    rw [List.foldl_cons, ih, getLsbD_rawStep, or_assoc]
    simp only [List.mem_cons, exists_eq_or_imp]

theorem getLsbD_rawButtons (s : State) (k : Nat) : (rawButtons s).getLsbD k = true ↔
    ∃ i, i < 14 ∧ s.pins.btnN.getLsbD i = false ∧ (btnMask s.par i).getLsbD k = true := by
  rw [rawButtons_eq, getLsbD_foldl_rawStep]
  simp

/-- Settles O28 (R222): the sample is a union of masks, and no legal mask has bit 15. -/
theorem rawSampleIsThePressedMasks : Obligations.RawSampleIsThePressedMasks := by
  intro s
  refine ⟨getLsbD_rawButtons s, fun hp => ?_⟩
  by_contra set
  obtain ⟨i, -, -, bit⟩ := (getLsbD_rawButtons s 15).mp (by simpa using set)
  rw [btnMask_bit15 hp i] at bit
  cases bit

theorem withinMasks_zero (p : Params) : withinMasks p 0 := BitVec.zero_and

theorem withinMasks_rawButtons (s : State) : withinMasks s.par (rawButtons s) := by
  refine (withinMasks_iff _ _).mpr fun k hk => ?_
  obtain ⟨i, -, -, bit⟩ := (getLsbD_rawButtons s k).mp hk
  rw [getLsbD_maskAll, List.any_eq_true]
  obtain listed | nothing := btnMask_cases s.par i
  · exact ⟨_, listed, bit⟩
  · simp [nothing] at bit

/-! ### The debouncer -/

theorem debounce_lastRaw (now : Nat) (raw : Half) (b : Btn) : (debounce now raw b).lastRaw = raw := by
  obtain ⟨same, h⟩ | ⟨-, -, h⟩ | ⟨-, -, h⟩ := debounce_cases now raw b <;> rw [h]
  exact same.symm

theorem debounce_same {raw : Half} {b : Btn} (h : raw = b.lastRaw) (now : Nat) : debounce now raw b = b := if_pos h

theorem foldl_debounce_same {raw : Half} {b : Btn} (h : raw = b.lastRaw) (times : List Nat) :
    times.foldl (fun c later => debounce later raw c) b = b := by
  induction times with
  | nil => rfl
  | cons now times ih => rw [List.foldl_cons, debounce_same h, ih]

/-- Settles O29 (R223): every read leaves the sample it took in `last_raw`, so a repetition finds it there. -/
theorem earlyChangeIsNeverCommittedByWaiting : Obligations.EarlyChangeIsNeverCommittedByWaiting := by
  intro now raw b
  refine ⟨debounce_lastRaw now raw b, fun differs early => ?_, fun differs late => ?_, fun same => debounce_same same now,
    foldl_debounce_same (debounce_lastRaw now raw b).symm⟩
  · obtain ⟨same, -⟩ | ⟨-, -, h⟩ | ⟨-, late, -⟩ := debounce_cases now raw b
    · exact absurd same differs
    · rw [h]
      exact ⟨rfl, rfl⟩
    · exact absurd late (not_le.mpr early)
  · obtain ⟨same, -⟩ | ⟨-, early, -⟩ | ⟨-, -, h⟩ := debounce_cases now raw b
    · exact absurd same differs
    · exact absurd late (not_le.mpr early)
    · rw [h]
      exact ⟨rfl, rfl⟩

/-! ### Starting the readers and the engine -/

/-- Settles O53 (R221). -/
theorem initButtonsZeroesTheReader : Obligations.InitButtonsZeroesTheReader := fun _ => rfl

/-- Settles O31 (R275, R278). -/
theorem initEngineStartsOrFails : Obligations.InitEngineStartsOrFails := by
  refine fun s => ⟨fun hu hc => ?_, fun hu hc => ?_, fun hu => ⟨if_neg hu, if_neg hu⟩⟩
  · obtain ⟨started, -⟩ | ⟨-, -, h⟩ | ⟨-, refused, -⟩ := initEngine_cases s
    · exact absurd hu started
    · exact h
    · simp [hc] at refused
  · obtain ⟨started, -⟩ | ⟨-, claimed, -⟩ | ⟨-, -, h⟩ := initEngine_cases s
    · exact absurd hu started
    · simp [hc] at claimed
    · rw [hostOp, h]
      exact ⟨rfl, rfl⟩

end Sys2Proof.Machine
end

section
/-! PROOFS. The invariants of 10_state (R30, R40), 20_memory (R74), 43_button_matrix (R224) and 44_pak_store (R249): every
step keeps them; and what alone can clear `CRC_ERROR` (60_exceptions R305) or change the flash (44_pak_store R240). -/

namespace Sys2Proof.Machine

variable {s t u v : State}

/-! ### Invariants of a step -/

/-- What the engine's action can leave: the state with another `ENG` and line record, after a command in `Exec`. -/
theorem engineAct_frame (h : engineAct s = .next t) :
    (s.eng.fsm ≠ .exec ∧ t = { s with eng := t.eng, wire := t.wire })
    ∨ (s.eng.fsm = .exec ∧ ∃ i rest u, decode s.eng.req = .ok i rest ∧ exec i s = .next u
        ∧ t = { u with eng := t.eng, wire := t.wire }) := by
  obtain ⟨he, rfl⟩ | ⟨he, i, rest, u, hd, hu, rfl⟩ := engineAct_cases h
  · exact .inl ⟨he, rfl⟩
  · exact .inr ⟨he, i, rest, u, hd, hu, by rw [linePhase_eq, startReply_frame]; rfl⟩

theorem engineAct_time (h : engineAct s = .next t) : t.time = s.time := by
  obtain ⟨-, frame⟩ | ⟨-, i, rest, u, -, hu, frame⟩ := engineAct_frame h
  · exact (congrArg State.time frame :)
  · have time : t.time = u.time := (congrArg State.time frame :)
    exact time.trans (exec_time hu)

/-- A property that the reset, the opening of a microsecond, every action and the count of `TIME` keep is kept by a step. -/
theorem step_invariant {P : State → Prop} (reset : ∀ s, P s → P (resetBlock s)) (opened : ∀ s, P s → P (openMicro s))
    (actor : ∀ a s, P s → P (actorAct a s)) (engine : ∀ s t, P s → engineAct s = .next t → P t)
    (tick : ∀ s, P s → s.time + 1 < Config.timeLimit → P (s.withTime (s.time + 1))) (hs : P s) (h : step s = .next t) :
    P t := by
  obtain ⟨-, rfl⟩ | ⟨-, ht, u, hu, rfl⟩ := step_cases h
  · exact reset _ (opened s hs)
  · have acted := actorsAct_induction actor ((currentInputs s).after ++ actorsAll u) u
      (engine _ u (actorsAct_induction actor _ _ (opened s hs)) hu)
    have time : (actorsAct ((currentInputs s).after ++ actorsAll u) u).time = u.time := (actorsAct_frame _ u).time
    have ticked := tick _ acted (by rw [time, engineAct_time hu, microBefore_frame.time]; exact ht)
    rwa [time] at ticked

/-! ### The button vectors -/

theorem ButtonsOk.congr (h : ButtonsOk s) (par : t.par = s.par) (snap : t.snap = s.snap) (btn : t.btn = s.btn) :
    ButtonsOk t := by
  constructor
  · rw [par, snap]; exact h.snap
  · rw [par, btn]; exact h.lastRaw
  · rw [par, btn]; exact h.committed

theorem debounce_within {p : Params} {raw : Half} {b : Btn} (now : Nat) (hraw : withinMasks p raw)
    (hlast : withinMasks p b.lastRaw) (hcommitted : withinMasks p b.committed) :
    withinMasks p (debounce now raw b).lastRaw ∧ withinMasks p (debounce now raw b).committed := by
  obtain ⟨-, h⟩ | ⟨-, -, h⟩ | ⟨-, -, h⟩ := debounce_cases now raw b <;> rw [h]
  · exact ⟨hlast, hcommitted⟩
  · exact ⟨hraw, hcommitted⟩
  · exact ⟨hraw, hraw⟩

theorem hostOp_buttons (op : HostOp) (h : ButtonsOk s) : ButtonsOk (hostOp op s) := by
  cases op with
  | initPak =>
    exact h.congr (congrArg State.par (initPak_eq s) :) (congrArg State.snap (initPak_eq s) :)
      (congrArg State.btn (initPak_eq s) :)
  | initEngine =>
    exact h.congr (congrArg State.par (initEngine_eq s) :) (congrArg State.snap (initEngine_eq s) :)
      (congrArg State.btn (initEngine_eq s) :)
  | initButtons => exact ⟨h.snap, withinMasks_zero _, withinMasks_zero _⟩
  | initDecoder => exact h.congr rfl rfl rfl
  | engineReset => exact h.congr rfl rfl rfl
  | setCenter => exact h.congr rfl rfl rfl

theorem actorAct_buttons (a : Actor) (s : State) (h : ButtonsOk s) : ButtonsOk (actorAct a s) := by
  obtain ha | ⟨op, rest, -, -, ha⟩ | ⟨ax, -, ha⟩ | ⟨-, ha⟩ := actorAct_cases a s <;> rw [ha]
  · exact h
  · exact hostOp_buttons op (h.congr rfl rfl rfl)
  · exact h.congr (State.withAx_par _ _ _) (State.withAx_snap _ _ _) (State.withAx_btn _ _ _)
  · obtain ⟨last, committed⟩ := debounce_within s.time (withinMasks_rawButtons s) h.lastRaw h.committed
    rw [samplerTick_eq]
    exact ⟨committed, last, committed⟩

theorem engineAct_buttons (s t : State) (h : ButtonsOk s) (ht : engineAct s = .next t) : ButtonsOk t := by
  obtain ⟨-, frame⟩ | ⟨-, i, rest, u, -, hu, frame⟩ := engineAct_frame ht
  · exact h.congr (congrArg State.par frame :) (congrArg State.snap frame :) (congrArg State.btn frame :)
  · have command := (exec_frame hu).rest
    exact (h.congr (t := u) (congrArg State.par command :) (congrArg State.snap command :)
      (congrArg State.btn command :)).congr
        (congrArg State.par frame :) (congrArg State.snap frame :) (congrArg State.btn frame :)

/-- Settles O47 (R40): every sample is a union of masks, and the other vectors are copies of samples. -/
theorem stepKeepsButtonVectors : Obligations.StepKeepsButtonVectors := fun _ _ =>
  step_invariant (fun _ _ => ⟨withinMasks_zero _, withinMasks_zero _, withinMasks_zero _⟩)
    (fun _ h => h.congr rfl rfl rfl) actorAct_buttons engineAct_buttons (fun _ h _ => h.congr rfl rfl rfl)

/-! ### The status -/

theorem StatusOk.congr (h : StatusOk s) (par : t.par = s.par) (info : t.info = s.info) : StatusOk t := by
  constructor
  · rw [par]; exact h.params
  · rw [info]; exact h.reserved
  · rw [par, info]; exact h.pakBits

theorem StatusOk.set (h : StatusOk s) (par : t.par = s.par) (info : t.info = { status := setCrcError s.info.status }) :
    StatusOk t := by
  constructor
  · rw [par]; exact h.params
  · rw [info]; exact (setCrcError_shift _).trans h.reserved
  · rw [par, info]; exact (setCrcError_and_three _).trans h.pakBits

theorem StatusOk.clear (h : StatusOk s) (par : t.par = s.par)
    (info : t.info = { status := clearCrcError s.info.status }) : StatusOk t := by
  constructor
  · rw [par]; exact h.params
  · rw [info]; exact clearCrcError_shift _ h.reserved
  · rw [par, info]; exact (clearCrcError_and_three _).trans h.pakBits

theorem paramsWf_statusReset {p : Params} (h : paramsWf p = true) : p.statusReset >>> 3 = 0 := by
  simp only [paramsWf, Bool.and_eq_true, beq_iff_eq] at h
  obtain ⟨⟨-, status⟩, -⟩ := h
  exact status

/-- What a host operation does to `INFO`: nothing, unless it is EngineReset. -/
theorem hostOp_info (op : HostOp) (s : State) : (hostOp op s).info = s.info
    ∨ (op = .engineReset ∧ (hostOp op s).info = { status := clearCrcError s.info.status }) := by
  cases op with
  | initPak => exact .inl (congrArg State.info (initPak_eq s) :)
  | initEngine => exact .inl (congrArg State.info (initEngine_eq s) :)
  | engineReset => exact .inr ⟨rfl, rfl⟩
  | initDecoder => exact .inl rfl
  | initButtons => exact .inl rfl
  | setCenter => exact .inl rfl

theorem actorAct_status (a : Actor) (s : State) (h : StatusOk s) : StatusOk (actorAct a s) := by
  have par := (actorAct_frame a s).par
  obtain ha | ⟨op, rest, -, -, ha⟩ | ⟨ax, -, ha⟩ | ⟨-, ha⟩ := actorAct_cases a s
  · rwa [ha]
  · obtain same | ⟨-, cleared⟩ := hostOp_info op (s.withEnv { s.env with calls := rest }) <;> rw [← ha] at *
    · exact h.congr par same
    · exact h.clear par cleared
  · exact h.congr par (by rw [ha]; exact State.withAx_info _ _ _)
  · exact h.congr par (by rw [ha]; rfl)

theorem engineAct_status (s t : State) (h : StatusOk s) (ht : engineAct s = .next t) : StatusOk t := by
  obtain ⟨-, frame⟩ | ⟨-, i, rest, u, -, hu, frame⟩ := engineAct_frame ht
  · exact h.congr (congrArg State.par frame :) (congrArg State.info frame :)
  · have par : t.par = u.par := (congrArg State.par frame :)
    have par := par.trans (exec_par hu)
    have info : t.info = u.info := (congrArg State.info frame :)
    obtain same | ⟨-, set⟩ | ⟨-, cleared⟩ := exec_info_cases hu
    · exact h.congr par (info.trans same)
    · exact h.set par (info.trans set)
    · exact h.clear par (info.trans cleared)

/-- Settles O48 (R30, R40): raising and clearing a `ChecksumError` touch bit 2 alone. -/
theorem stepKeepsStatus : Obligations.StepKeepsStatus := fun _ _ =>
  step_invariant (fun _ h => ⟨h.params, paramsWf_statusReset h.params, rfl⟩) (fun _ h => h.congr rfl rfl) actorAct_status
    engineAct_status (fun _ h _ => h.congr rfl rfl)

/-- Only EngineReset clears `CRC_ERROR` among the host operations. -/
theorem actorAct_crcError (a : Actor) (s : State) (h : crcError s = true ∧ HostOp.engineReset ∉ s.env.calls) :
    crcError (actorAct a s) = true ∧ HostOp.engineReset ∉ (actorAct a s).env.calls := by
  obtain ha | ⟨op, rest, hcalls, -, ha⟩ | ⟨ax, -, ha⟩ | ⟨-, ha⟩ := actorAct_cases a s <;> rw [ha]
  · exact h
  · obtain ⟨set, no_reset⟩ := h
    rw [hcalls, List.mem_cons, not_or] at no_reset
    have env : (hostOp op (s.withEnv { s.env with calls := rest })).env.calls = rest := by
      cases op with
      | initPak => exact congrArg (fun c : State => c.env.calls) (initPak_eq _)
      | initEngine => exact congrArg (fun c : State => c.env.calls) (initEngine_eq _)
      | engineReset => rfl
      | initDecoder => rfl
      | initButtons => rfl
      | setCenter => rfl
    refine ⟨?_, by rw [env]; exact no_reset.2⟩
    obtain same | ⟨reset, -⟩ := hostOp_info op (s.withEnv { s.env with calls := rest })
    · rw [crcError, same]
      exact set
    · exact absurd reset.symm no_reset.1
  · rw [axisHandler, crcError, State.withAx_info, State.withAx_env]
    exact h
  · exact h

theorem decode_reset_head {bytes rest : List Byte} (h : decode bytes = .ok .reset rest) : bytes.headD 0 = 0xFF := by
  rw [(decode_cases h).2]
  rfl

/-- Settles O45 (R305): in a microsecond without the three, every action keeps `CRC_ERROR` set. -/
theorem crcErrorIsSticky : Obligations.CrcErrorIsSticky := by
  intro s t h set cleared
  obtain ⟨hr, -⟩ | ⟨-, -, w, hw, rfl⟩ := step_cases h
  · exact .inl hr
  · by_contra none
    simp only [not_or] at none
    obtain ⟨-, not_reset, no_call⟩ := none
    obtain ⟨before, calls⟩ := actorsAct_induction (P := fun c => crcError c = true ∧ HostOp.engineReset ∉ c.env.calls)
      actorAct_crcError (actorsBefore (openMicro s) (currentInputs s).before) (openMicro s) ⟨set, no_call⟩
    have engine : crcError w = true ∧ HostOp.engineReset ∉ w.env.calls := by
      obtain ⟨-, frame⟩ | ⟨he, i, rest, u, hd, hu, frame⟩ := engineAct_frame hw
      · rw [frame]
        exact ⟨before, calls⟩
      · rw [frame]
        refine ⟨?_, by rw [← microBefore, ← exec_env hu] at calls; exact calls⟩
        by_contra lost
        have reset := exec_clears_crcError hu before (Bool.eq_false_iff.mpr lost)
        subst reset
        have same := microBefore_exec he
        rw [same] at he hd
        exact not_reset ⟨he, decode_reset_head hd⟩
    have after := actorsAct_induction (P := fun c => crcError c = true ∧ HostOp.engineReset ∉ c.env.calls)
      actorAct_crcError ((currentInputs s).after ++ actorsAll w) w engine
    exact absurd (after.1.symm.trans cleared) (by simp)

/-! ### The stamps -/

theorem StampsOk.congr (h : StampsOk s) (time : t.time = s.time) (btn : t.btn = s.btn) (pak : t.pak = s.pak) :
    StampsOk t := by
  constructor
  · rw [time]; exact h.time
  · rw [time, btn]; exact h.lastChange
  · rw [time, pak]; exact h.lastFlush

theorem debounce_lastChange {now : Nat} {b : Btn} (h : b.lastChange ≤ now) (raw : Half) :
    (debounce now raw b).lastChange ≤ now := by
  obtain ⟨-, hb⟩ | ⟨-, -, hb⟩ | ⟨-, -, hb⟩ := debounce_cases now raw b <;> rw [hb]
  · exact h
  · exact h

theorem initPak_lastFlush (s : State) :
    (initPak s).pak.lastFlush = s.pak.lastFlush ∨ (initPak s).pak.lastFlush = s.time := by
  by_cases hu : s.eng.fsm = .uninit
  · rw [initPak_of_uninit hu]
    obtain ⟨-, h⟩ | ⟨-, h⟩ := initPakBody_cases (s := s) <;> rw [h]
    · exact .inr rfl
    · exact .inl rfl
  · rw [initPak_of_started hu]
    exact .inl rfl

theorem pakWrite_lastFlush (addr len : Nat) (data : List Byte) :
    (pakWrite addr len data s).pak.lastFlush = s.pak.lastFlush ∨ (pakWrite addr len data s).pak.lastFlush = s.time := by
  obtain ⟨-, h⟩ | ⟨-, -, h⟩ | ⟨-, -, h⟩ := pakWrite_cases (s := s) addr len data <;> rw [h]
  · exact .inl rfl
  · exact .inl rfl
  · exact .inr rfl

/-- What a command makes of the store: nothing, or what `MemWrite` makes of it. -/
theorem exec_store_cases {i : Instr} (h : exec i s = .next t) :
    (t.pak = s.pak ∧ t.flash = s.flash)
    ∨ ∃ aw data, i = .write aw data ∧ ckOk aw = true
        ∧ t.pak = (pakWrite (busAddr aw).toNat Config.block data s).pak
        ∧ t.flash = (pakWrite (busAddr aw).toNat Config.block data s).flash := by
  by_cases write : ∃ aw data, i = .write aw data
  · obtain ⟨aw, data, rfl⟩ := write
    rw [exec_write_eq] at h
    cases h
    cases hck : ckOk aw
    · rw [writeCommit_of_mismatch hck]
      exact .inl ⟨rfl, rfl⟩
    · rw [writeCommit_of_match hck]
      exact .inr ⟨aw, data, rfl, hck, rfl, rfl⟩
  · exact .inl (exec_store_of_not_write h fun aw data hi => write ⟨aw, data, hi⟩)

theorem hostOp_stamps (op : HostOp) (h : StampsOk s) : StampsOk (hostOp op s) := by
  cases op with
  | initPak =>
    have time : (initPak s).time = s.time := (congrArg State.time (initPak_eq s) :)
    have btn : (initPak s).btn = s.btn := (congrArg State.btn (initPak_eq s) :)
    refine ⟨by rw [hostOp, time]; exact h.time, by rw [hostOp, time, btn]; exact h.lastChange, ?_⟩
    rw [hostOp, time]
    obtain same | now := initPak_lastFlush s
    · rw [same]
      exact h.lastFlush
    · exact now.le
  | initEngine =>
    exact h.congr (congrArg State.time (initEngine_eq s) :) (congrArg State.btn (initEngine_eq s) :)
      (congrArg State.pak (initEngine_eq s) :)
  | initButtons => exact ⟨h.time, Nat.zero_le _, h.lastFlush⟩
  | initDecoder => exact h.congr rfl rfl rfl
  | engineReset => exact h.congr rfl rfl rfl
  | setCenter => exact h.congr rfl rfl rfl

theorem actorAct_stamps (a : Actor) (s : State) (h : StampsOk s) : StampsOk (actorAct a s) := by
  obtain ha | ⟨op, rest, -, -, ha⟩ | ⟨ax, -, ha⟩ | ⟨-, ha⟩ := actorAct_cases a s <;> rw [ha]
  · exact h
  · exact hostOp_stamps op (h.congr rfl rfl rfl)
  · exact h.congr (State.withAx_time _ _ _) (State.withAx_btn _ _ _) (State.withAx_pak _ _ _)
  · rw [samplerTick_eq]
    exact ⟨h.time, debounce_lastChange h.lastChange _, h.lastFlush⟩

theorem engineAct_stamps (s t : State) (h : StampsOk s) (ht : engineAct s = .next t) : StampsOk t := by
  obtain ⟨-, frame⟩ | ⟨-, i, rest, u, -, hu, frame⟩ := engineAct_frame ht
  · exact h.congr (congrArg State.time frame :) (congrArg State.btn frame :) (congrArg State.pak frame :)
  · have command := (exec_frame hu).rest
    have time : t.time = s.time := engineAct_time ht
    have btn : t.btn = s.btn := (congrArg State.btn frame).trans (congrArg State.btn command :)
    have pak : t.pak = u.pak := (congrArg State.pak frame :)
    refine ⟨by rw [time]; exact h.time, by rw [time, btn]; exact h.lastChange, ?_⟩
    rw [time, pak]
    obtain ⟨same, -⟩ | ⟨aw, data, -, -, written, -⟩ := exec_store_cases hu
    · rw [same]
      exact h.lastFlush
    · rw [written]
      obtain same | now := pakWrite_lastFlush (s := s) (busAddr aw).toNat Config.block data
      · rw [same]
        exact h.lastFlush
      · exact now.le

/-- Settles O49 (43_button_matrix R224, 44_pak_store R249): a stamp is only ever set to `TIME` or to 0. -/
theorem stepKeepsStamps : Obligations.StepKeepsStamps := fun _ _ =>
  step_invariant (fun _ _ => ⟨(by decide : 0 < Config.timeLimit), le_refl 0, le_refl 0⟩) (fun _ h => h.congr rfl rfl rfl) actorAct_stamps
    engineAct_stamps
    (fun _ h ht => ⟨ht, Nat.le_succ_of_le h.lastChange, Nat.le_succ_of_le h.lastFlush⟩)

/-! ### The store -/

theorem StoreOk.congr (h : StoreOk s) (pak : t.pak = s.pak) (flash : t.flash = s.flash) : StoreOk t := by
  constructor
  · rw [pak]; exact h.buf
  · rw [flash]; exact h.flash
  · simp only [State.flashByte, State.pakByte, pak, flash]
    exact h.mirror

/-- A flush makes the flash the mirror of a canonical buffer. -/
theorem flush_store (h : Memory.wf Config.pakFill s.pak.buf = true) : StoreOk (flush s) :=
  ⟨h, pakToFlash_wf s.pak.buf, fun _ _ _ => flush_mirror h⟩

/-- `MemWrite` keeps the store: it changes the buffer only with the dirty mark or with a flush. -/
theorem pakWrite_store (h : StoreOk s) (addr len : Nat) (data : List Byte) : StoreOk (pakWrite addr len data s) := by
  have buf := pakWrite_wf h.buf addr len data
  obtain ⟨-, hw⟩ | ⟨-, -, hw⟩ | ⟨-, -, hw⟩ := pakWrite_cases (s := s) addr len data <;> rw [hw] at buf ⊢
  · exact h
  · exact ⟨buf, h.flash, fun _ clean => absurd clean (by simp [pakCommit])⟩
  · exact flush_store buf

theorem initPak_store (h : StoreOk s) : StoreOk (initPak s) := by
  by_cases hu : s.eng.fsm = .uninit
  · rw [initPak_of_uninit hu]
    exact ⟨initPakBody_wf s, initPakBody_flash_wf h.flash, fun _ _ _ => initPakBody_mirror h.flash⟩
  · rwa [initPak_of_started hu]

theorem hostOp_store (op : HostOp) (h : StoreOk s) : StoreOk (hostOp op s) := by
  cases op with
  | initPak => exact initPak_store h
  | initEngine => exact h.congr (congrArg State.pak (initEngine_eq s) :) (congrArg State.flash (initEngine_eq s) :)
  | initButtons => exact h.congr rfl rfl
  | initDecoder => exact h.congr rfl rfl
  | engineReset => exact h.congr rfl rfl
  | setCenter => exact h.congr rfl rfl

theorem actorAct_store (a : Actor) (s : State) (h : StoreOk s) : StoreOk (actorAct a s) := by
  obtain ha | ⟨op, rest, -, -, ha⟩ | ⟨ax, -, ha⟩ | ⟨-, ha⟩ := actorAct_cases a s <;> rw [ha]
  · exact h
  · exact hostOp_store op (h.congr rfl rfl)
  · exact h.congr (State.withAx_pak _ _ _) (State.withAx_flash _ _ _)
  · exact h.congr rfl rfl

theorem engineAct_store (s t : State) (h : StoreOk s) (ht : engineAct s = .next t) : StoreOk t := by
  obtain ⟨-, frame⟩ | ⟨-, i, rest, u, -, hu, frame⟩ := engineAct_frame ht
  · exact h.congr (congrArg State.pak frame :) (congrArg State.flash frame :)
  · have pak : t.pak = u.pak := (congrArg State.pak frame :)
    have flash : t.flash = u.flash := (congrArg State.flash frame :)
    obtain ⟨pak', flash'⟩ | ⟨aw, data, -, -, pak', flash'⟩ := exec_store_cases hu
    · exact h.congr (pak.trans pak') (flash.trans flash')
    · exact (pakWrite_store h _ _ _).congr (pak.trans pak') (flash.trans flash')

/-- Settles O50 (20_memory R74): a commit marks the pak dirty, and every flush and every `InitPak` makes the mirror anew. -/
theorem stepKeepsStore : Obligations.StepKeepsStore := fun _ _ =>
  step_invariant (fun _ h => ⟨rfl, h.flash, fun ready => absurd ready (by simp [resetBlock, State.reset])⟩)
    (fun _ h => h.congr rfl rfl) actorAct_store engineAct_store (fun _ h _ => h.congr rfl rfl)

/-! ### What changes the flash -/

/-- Among the host operations only an `InitPak` in `Uninit` on a blank region changes the flash. -/
theorem hostOp_flash (op : HostOp) (s : State) : (hostOp op s).flash = s.flash
    ∨ (op = .initPak ∧ flashBlank s.flash = true) := by
  cases op with
  | initPak =>
    by_cases hu : s.eng.fsm = .uninit
    · obtain ⟨blank, -⟩ | ⟨-, h⟩ := initPakBody_cases (s := s)
      · exact .inr ⟨rfl, blank⟩
      · rw [hostOp, initPak_of_uninit hu, h]
        exact .inl rfl
    · rw [hostOp, initPak_of_started hu]
      exact .inl rfl
  | initEngine => exact .inl (congrArg State.flash (initEngine_eq s) :)
  | initButtons => exact .inl rfl
  | initDecoder => exact .inl rfl
  | engineReset => exact .inl rfl
  | setCenter => exact .inl rfl

theorem hostOp_env (op : HostOp) (s : State) : (hostOp op s).env = s.env := by
  cases op with
  | initPak => exact (congrArg State.env (initPak_eq s) :)
  | initEngine => exact (congrArg State.env (initEngine_eq s) :)
  | initButtons => rfl
  | initDecoder => rfl
  | engineReset => rfl
  | setCenter => rfl

/-- The flash is still `m`, and no waiting call will format it. -/
structure FlashKept (m : Memory) (s : State) : Prop where
  flash : s.flash = m
  calls : HostOp.initPak ∈ s.env.calls → flashBlank m = false

theorem actorAct_flashKept {m : Memory} (a : Actor) (s : State) (h : FlashKept m s) : FlashKept m (actorAct a s) := by
  obtain ha | ⟨op, rest, hcalls, -, ha⟩ | ⟨ax, -, ha⟩ | ⟨-, ha⟩ := actorAct_cases a s <;> rw [ha]
  · exact h
  · refine ⟨?_, fun waits => h.calls ?_⟩
    · obtain same | ⟨rfl, blank⟩ := hostOp_flash op (s.withEnv { s.env with calls := rest })
      · exact same.trans h.flash
      · rw [State.withEnv_flash, h.flash, h.calls (by rw [hcalls]; exact List.mem_cons_self)] at blank
        cases blank
    · rw [hostOp_env] at waits
      rw [hcalls]
      exact List.mem_cons_of_mem _ waits
  · rw [axisHandler]
    exact ⟨by rw [State.withAx_flash]; exact h.flash, by rw [State.withAx_env]; exact h.calls⟩
  · exact ⟨h.flash, h.calls⟩

/-- Settles O46 (R240, R247): in `Uninit` the calls decide, after it the command. -/
theorem flashChangesOnlyByFlush : Obligations.FlashChangesOnlyByFlush := by
  intro s t h changed
  obtain ⟨-, rfl⟩ | ⟨-, -, w, hw, rfl⟩ := step_cases h
  · exact absurd rfl changed
  by_cases hu : s.eng.fsm = .uninit
  · right
    by_contra none
    have kept : FlashKept s.flash (openMicro s) := by
      refine ⟨rfl, fun waits => ?_⟩
      by_contra blank
      exact none ⟨hu, waits, (flashBlank_iff s.flash).mp (Bool.not_eq_false _ ▸ blank)⟩
    have before := actorsAct_induction actorAct_flashKept (actorsBefore (openMicro s) (currentInputs s).before) _ kept
    have engine : FlashKept s.flash w := by
      obtain ⟨-, frame⟩ | ⟨he, -⟩ := engineAct_frame hw
      · rw [frame]
        exact ⟨before.flash, before.calls⟩
      · rw [microBefore_exec he, hu] at he
        cases he
    exact changed (actorsAct_induction actorAct_flashKept _ w engine).flash
  · left
    have before := microBefore_started hu
    have after := microAfter_frame (s := w) (currentInputs s)
    have turned : w.flash = s.flash → (microAfter (currentInputs s) w).flash = s.flash := fun same => by
      refine (after.flash ?_).trans same
      obtain ⟨-, rfl⟩ | ⟨-, i, rest, u, -, -, rfl⟩ := engineAct_cases hw
      · exact engNext_ne_uninit (by rwa [before.eng])
      · exact engNext_ne_uninit (startReply_ne_uninit _ _)
    obtain ⟨-, frame⟩ | ⟨he, i, rest, u, hd, hu', frame⟩ := engineAct_frame hw
    · exact absurd (turned ((congrArg State.flash frame).trans before.flash)) changed
    · have flash : w.flash = u.flash := (congrArg State.flash frame :)
      have same := microBefore_exec he
      rw [same] at he hd
      refine ⟨he, ?_⟩
      obtain ⟨-, same⟩ | ⟨aw, data, rfl, hck, -, written⟩ := exec_store_cases hu'
      · exact absurd (turned (flash.trans (same.trans before.flash))) changed
      · obtain ⟨-, hw'⟩ | ⟨-, -, hw'⟩ | ⟨acc, due, -⟩ :=
          pakWrite_cases (s := microBefore s) (busAddr aw).toNat Config.block data
        · exact absurd (turned (flash.trans (written.trans (by rw [hw', before.flash])))) changed
        · exact absurd (turned (flash.trans (written.trans (by rw [hw']; exact before.flash)))) changed
        · exact ⟨aw, data, rest, hd, hck, by rwa [← before.accessible], by rwa [← before.coalesce]⟩

end Sys2Proof.Machine
end

section
/-! PROOFS. The engine on the timeline of 41_bit_transceiver R171: each state's microsecond leads to a place of the timeline
one microsecond later, and so does every step. -/

namespace Sys2Proof.Machine

variable {s t u v : State} {p : Params} {e : Eng} {now flushEnd : Nat} {sampled : Bool}

/-- `EngineOk` of an engine alone, at a time and with an end of the last flush of one's own choice. -/
structure TimelineOk (p : Params) (flushEnd now : Nat) (e : Eng) : Prop where
  req : e.req.length = Config.reqSize
  reply : e.reply.length = Config.replySize
  timeline : onTimeline p now e
  dir : e.dir = .output ↔ fsmDrives e.fsm = true
  flushing : e.fsm = .flushing → now < flushEnd
  notHeld : e.fsm ≠ .uninit → e.fsm ≠ .flushing → flushEnd ≤ now

theorem engineOk_iff (s : State) : EngineOk s ↔ TimelineOk s.par s.hold.flushEnd s.time s.eng :=
  ⟨fun h => ⟨h.buffers.req, h.buffers.reply, h.timeline, h.dir, h.flushing, h.notHeld⟩,
    fun h => ⟨⟨h.req, h.reply⟩, h.timeline, h.dir, h.flushing, h.notHeld⟩⟩

/-- The sampled level is no part of the timeline. -/
theorem TimelineOk.sample (h : TimelineOk p flushEnd now e) (sampled : Bool) :
    TimelineOk p flushEnd now (engSampleLine sampled e) := by
  rw [engSampleLine_eq]
  exact ⟨h.req, h.reply, h.timeline, h.dir, h.flushing, h.notHeld⟩

/-- Without a flush to come, the bound on the last one moves on with the time. -/
theorem TimelineOk.notHeld_succ (h : TimelineOk p flushEnd now e) (hu : e.fsm ≠ .uninit) (hf : e.fsm ≠ .flushing) :
    flushEnd ≤ now + 1 := Nat.le_succ_of_le (h.notHeld hu hf)

/-! ### One microsecond in each state -/

theorem timeline_idle (h : TimelineOk p flushEnd now e) (hf : e.fsm = .idle) :
    TimelineOk p flushEnd (now + 1) (rxStart now sampled e) := by
  have no_flush := h.notHeld_succ (by simp [hf]) (by simp [hf])
  have dir := h.dir
  rw [hf] at dir
  obtain ⟨-, hs⟩ | ⟨-, hs⟩ := rxStart_cases now sampled e <;> rw [hs]
  · refine ⟨h.req, h.reply, ⟨Nat.lt_succ_self now, ?_, rfl, .inl rfl⟩, dir, nofun, fun _ _ => no_flush⟩
    rw [Nat.add_sub_cancel_left]
    rfl
  · refine ⟨h.req, h.reply, ?_, h.dir, fun hx => ?_, fun _ _ => no_flush⟩
    · rw [onTimeline, hf]
      trivial
    · simp [hf] at hx

theorem headD_set (l : List Byte) (n : Nat) (b : Byte) (h : l ≠ []) :
    (l.set n b).headD 0 = if n = 0 then b else l.headD 0 := by
  cases l with
  | nil => exact absurd rfl h
  | cons a l => cases n <;> simp

/-- A request between its first byte and its end: what `rxEnd` decides upon after a byte (R174, R175). -/
structure ByteStored (now : Nat) (e : Eng) : Prop where
  fsm : e.fsm = .rxReq
  req : e.req.length = Config.reqSize
  reply : e.reply.length = Config.replySize
  nreq : e.nreq = requestLength (e.req.headD 0)
  bound : e.rxcount ≤ e.nreq
  count : e.t0 + Config.tByte * e.rxcount = now + 1
  started : e.t0 < now + 1
  txcount : e.txcount = 0
  dir : e.dir ≠ .output

theorem byteStored (h : TimelineOk p flushEnd now e) (hf : e.fsm = .rxReq)
    (hend : (now - e.t0) % Config.tByte = Config.tByte - 1) : ByteStored now (rxStore e) := by
  have line := h.timeline
  rw [onTimeline, hf] at line
  obtain ⟨started, count, txcount, known⟩ := line
  have nonempty : e.req ≠ [] := by
    intro hx
    simpa [hx, Config.reqSize] using h.req
  have tByte : Config.tByte = 32 := rfl
  rw [tByte] at hend count
  have head := headD_set e.req e.rxcount e.rxByte nonempty
  refine ⟨hf, (List.length_set ..).trans h.req, h.reply, ?_, ?_, ?_, Nat.lt_succ_of_lt started, txcount, ?_⟩
  · show (if e.rxcount = 0 then requestLength e.rxByte else e.nreq) = requestLength ((e.req.set e.rxcount e.rxByte).headD 0)
    rw [head]
    obtain first | ⟨nreq, -⟩ := known
    · rw [if_pos first, if_pos first]
    · split
      · rfl
      · exact nreq
  · show e.rxcount + 1 ≤ if e.rxcount = 0 then requestLength e.rxByte else e.nreq
    split
    · next first =>
      rw [first]
      exact requestLength_pos _
    · next later =>
      obtain first | ⟨-, more⟩ := known
      · exact absurd first later
      · exact more
  · show e.t0 + Config.tByte * (e.rxcount + 1) = now + 1
    rw [tByte]
    omega
  · have dir := h.dir
    rw [hf] at dir
    exact fun output => absurd (dir.mp output) (by simp [fsmDrives])

theorem timeline_rxEnd (h : ByteStored now e) (no_flush : flushEnd ≤ now + 1) :
    TimelineOk p flushEnd (now + 1) (rxEnd p e) := by
  have requestEnd_eq : e.rxcount = e.nreq → requestEnd e = now + 1 := fun last => by rw [requestEnd, ← last, h.count]
  rw [rxEnd]
  split_ifs with last no_wait
  · refine ⟨h.req, h.reply, ⟨h.nreq, last, ?_, ?_, h.txcount⟩, iff_of_true rfl rfl, nofun, fun _ _ => no_flush⟩
    · exact (congrArg₂ (· + ·) (requestEnd_eq last) no_wait).le
    · show now + 1 < requestEnd e + p.stopWait + Config.tDead
      rw [requestEnd_eq last, no_wait]
      exact Nat.lt_succ_self _
  · refine ⟨h.req, h.reply, ⟨h.nreq, last, (requestEnd_eq last).le, ?_, h.txcount⟩, iff_of_false h.dir (by simp [fsmDrives]), nofun,
      fun _ _ => no_flush⟩
    show now + 1 < requestEnd e + p.stopWait
    rw [requestEnd_eq last]
    omega
  · refine ⟨h.req, h.reply, ?_, ?_, fun hx => ?_, fun _ _ => no_flush⟩
    · have count := h.count
      have tByte : Config.tByte = 32 := rfl
      rw [tByte] at count
      rw [onTimeline, h.fsm]
      refine ⟨h.started, ?_, h.txcount, .inr ⟨h.nreq, lt_of_le_of_ne h.bound last⟩⟩
      rw [tByte]
      omega
    · rw [h.fsm]
      exact iff_of_false h.dir (by simp [fsmDrives])
    · simp [h.fsm] at hx

theorem rxSample_eq (now : Nat) (sampled : Bool) (e : Eng) :
    rxSample now sampled e = { e with rxByte := (rxSample now sampled e).rxByte } := by
  rw [rxSample]
  split <;> rfl

theorem timeline_rxReq (h : TimelineOk p flushEnd now e) (hf : e.fsm = .rxReq) :
    TimelineOk p flushEnd (now + 1) (rxStep p now sampled e) := by
  have no_flush := h.notHeld_succ (by simp [hf]) (by simp [hf])
  have sampled_ok : TimelineOk p flushEnd now (rxSample now sampled e) := by
    rw [rxSample_eq]
    exact ⟨h.req, h.reply, h.timeline, h.dir, h.flushing, h.notHeld⟩
  have t0 : (rxSample now sampled e).t0 = e.t0 := (congrArg Eng.t0 (rxSample_eq now sampled e) :)
  rw [rxStep]
  split
  · next hend => exact timeline_rxEnd (byteStored sampled_ok ((rxSample_fsm _ _ _).trans hf) (by rwa [t0])) no_flush
  · next hmid =>
    have line := h.timeline
    rw [onTimeline, hf] at line
    obtain ⟨started, count, txcount, known⟩ := line
    have count' : e.rxcount = (now + 1 - e.t0) / Config.tByte := by
      have tByte : Config.tByte = 32 := rfl
      rw [tByte] at count hmid ⊢
      omega
    rw [rxSample_eq]
    refine ⟨h.req, h.reply, ?_, h.dir, fun hx => ?_, fun _ _ => no_flush⟩
    · rw [onTimeline]
      simp only [hf]
      exact ⟨Nat.lt_succ_of_lt started, count', txcount, known⟩
    · simp [hf] at hx

theorem timeline_stopWait (h : TimelineOk p flushEnd now e) (hf : e.fsm = .stopWait) :
    TimelineOk p flushEnd (now + 1)
      (if requestEnd e + p.stopWait ≤ now + 1 then { e with fsm := .dead, dir := .output } else e) := by
  have no_flush := h.notHeld_succ (by simp [hf]) (by simp [hf])
  have line := h.timeline
  rw [onTimeline, hf] at line
  obtain ⟨nreq, rxcount, ended, waits, txcount⟩ := line
  split
  · next elapsed =>
    refine ⟨h.req, h.reply, ⟨nreq, rxcount, elapsed, ?_, txcount⟩, iff_of_true rfl rfl, nofun, fun _ _ => no_flush⟩
    exact Nat.succ_lt_succ waits
  · next wait =>
    refine ⟨h.req, h.reply, ?_, h.dir, fun hx => ?_, fun _ _ => no_flush⟩
    · rw [onTimeline, hf]
      exact ⟨nreq, rxcount, Nat.le_succ_of_le ended, not_le.mp wait, txcount⟩
    · simp [hf] at hx

theorem timeline_dead (h : TimelineOk p flushEnd now e) (hf : e.fsm = .dead) :
    TimelineOk p flushEnd (now + 1) (if execTime p e ≤ now + 1 then { e with fsm := .exec } else e) := by
  have no_flush := h.notHeld_succ (by simp [hf]) (by simp [hf])
  have line := h.timeline
  rw [onTimeline, hf] at line
  obtain ⟨nreq, rxcount, ended, waits, txcount⟩ := line
  have dir := h.dir
  rw [hf] at dir
  split
  · next elapsed =>
    exact ⟨h.req, h.reply, ⟨nreq, rxcount, le_antisymm waits elapsed, txcount⟩, dir, nofun, fun _ _ => no_flush⟩
  · next wait =>
    refine ⟨h.req, h.reply, ?_, h.dir, fun hx => ?_, fun _ _ => no_flush⟩
    · rw [onTimeline, hf]
      exact ⟨nreq, rxcount, Nat.le_succ_of_le ended, not_le.mp wait, txcount⟩
    · simp [hf] at hx

theorem timeline_flushing (h : TimelineOk p flushEnd now e) (hf : e.fsm = .flushing) :
    TimelineOk p flushEnd (now + 1) (flushStep flushEnd now e) := by
  have line := h.timeline
  rw [onTimeline, hf] at line
  obtain ⟨after_exec, nreply, txcount⟩ := line
  have dir := h.dir
  rw [hf] at dir
  obtain ⟨lasts, hs⟩ | ⟨ends, hs⟩ := flushStep_cases flushEnd now e <;> rw [hs]
  · refine ⟨h.req, h.reply, ?_, h.dir, fun _ => lasts, fun _ hx => absurd hf hx⟩
    rw [onTimeline, hf]
    exact ⟨Nat.le_succ_of_le after_exec, nreply, txcount⟩
  · refine ⟨h.req, h.reply, ⟨le_refl _, ?_, ?_, by simp [nreply]⟩, dir, nofun, fun _ _ => ends⟩
    · show now + 1 < now + 1 + Config.tByte * e.nreply
      rw [nreply]
      exact Nat.lt_add_of_pos_right (by decide)
    · show 0 = (now + 1 - (now + 1)) / Config.tByte
      rw [Nat.sub_self]
      rfl

theorem timeline_txReply (h : TimelineOk p flushEnd now e) (hf : e.fsm = .txReply) :
    TimelineOk p flushEnd (now + 1) (txStep now e) := by
  have no_flush := h.notHeld_succ (by simp [hf]) (by simp [hf])
  have line := h.timeline
  rw [onTimeline, hf] at line
  obtain ⟨started, before_end, -, sizes⟩ := line
  have dir := h.dir
  rw [hf] at dir
  rw [txStep]
  by_cases elapsed : replyEnd e ≤ now + 1
  · have last : replyEnd e = now + 1 := le_antisymm elapsed before_end
    rw [if_pos elapsed]
    refine ⟨h.req, h.reply, ⟨elapsed, ?_, ?_⟩, dir, nofun, fun _ _ => no_flush⟩
    · show now + 1 < replyEnd e + symbolTime .controllerStop
      rw [last]
      exact Nat.lt_add_of_pos_right (by decide)
    · show (now + 1 - e.txStart) / Config.tByte = e.nreply
      rw [← last, replyEnd, Nat.add_sub_cancel_left]
      exact Nat.mul_div_cancel_left _ (by decide)
  · rw [if_neg elapsed]
    exact ⟨h.req, h.reply, ⟨Nat.le_succ_of_le started, not_le.mp elapsed, rfl, sizes⟩, dir, nofun, fun _ _ => no_flush⟩

theorem timeline_txStop (h : TimelineOk p flushEnd now e) (hf : e.fsm = .txStop) :
    TimelineOk p flushEnd (now + 1)
      (if replyEnd e + symbolTime .controllerStop ≤ now + 1 then { e with fsm := .idle, dir := .input } else e) := by
  have no_flush := h.notHeld_succ (by simp [hf]) (by simp [hf])
  have line := h.timeline
  rw [onTimeline, hf] at line
  obtain ⟨ended, -, txcount⟩ := line
  split
  · exact ⟨h.req, h.reply, trivial, by simp [fsmDrives], nofun, fun _ _ => no_flush⟩
  · next more =>
    refine ⟨h.req, h.reply, ?_, h.dir, fun hx => ?_, fun _ _ => no_flush⟩
    · rw [onTimeline, hf]
      exact ⟨Nat.le_succ_of_le ended, not_le.mp more, txcount⟩
    · simp [hf] at hx

/-- A microsecond without a command moves the engine along its timeline. -/
theorem timeline_advance (h : TimelineOk p flushEnd now e) (he : e.fsm ≠ .exec) :
    TimelineOk p flushEnd (now + 1) (engAdvance p flushEnd now sampled e) := by
  cases hf : e.fsm with
  | uninit =>
    rw [engAdvance_of_not_started (.inl hf)]
    refine ⟨h.req, h.reply, ?_, h.dir, fun hx => ?_, fun hx => absurd hf hx⟩
    · rw [onTimeline, hf]
      trivial
    · simp [hf] at hx
  | fatal =>
    rw [engAdvance_of_not_started (.inr hf)]
    refine ⟨h.req, h.reply, ?_, h.dir, fun hx => ?_, fun hu hx => h.notHeld_succ hu hx⟩
    · rw [onTimeline, hf]
      trivial
    · simp [hf] at hx
  | idle => rw [engAdvance_idle hf]; exact timeline_idle h hf
  | rxReq => rw [engAdvance_rxReq hf]; exact timeline_rxReq h hf
  | stopWait => rw [engAdvance_stopWait hf]; exact timeline_stopWait h hf
  | dead => rw [engAdvance_dead hf]; exact timeline_dead h hf
  | exec => exact absurd hf he
  | flushing => rw [engAdvance_flushing hf]; exact timeline_flushing h hf
  | txReply => rw [engAdvance_txReply hf]; exact timeline_txReply h hf
  | txStop => rw [engAdvance_txStop hf]; exact timeline_txStop h hf

/-! ### The command's microsecond -/

theorem exec_reply_length {i : Instr} (h : exec i s = .next t) (hr : s.eng.reply.length = Config.replySize) :
    t.eng.reply.length = Config.replySize := by
  obtain ⟨bytes, sizes, -, reply⟩ := exec_reply h
  simp only [List.mem_cons, List.not_mem_nil, or_false] at sizes
  rw [reply, List.length_append, List.length_drop, hr, Config.replySize]
  omega

theorem exec_nreply {i : Instr} (h : exec i s = .next t) : t.eng.nreply ∈ [1, 3, 4, 33] := by
  obtain ⟨bytes, sizes, count, -⟩ := exec_reply h
  rwa [count]

/-- Only WRITE flushes, and its reply is one byte. -/
theorem exec_nreply_of_flush {i : Instr} (h : exec i s = .next t) (drawn : t.hold.draws ≠ s.hold.draws) :
    t.eng.nreply = 1 := by
  obtain same | ⟨aw, data, rfl, -⟩ := exec_flush_cases h
  · exact absurd (congrArg Hold.draws same) drawn
  · rw [exec_write_eq] at h
    cases h
    rfl

/-- The start of a reply is a place of the timeline, in `Flushing` or in `TxReply`. -/
theorem timeline_startReply {i : Instr} (h : EngineOk s) (he : s.eng.fsm = .exec) (hu : exec i s = .next u) :
    EngineOk (startReply s u) ∧ (startReply s u).eng.fsm ≠ .exec := by
  have frame := (exec_frame hu).eng
  have req : u.eng.req.length = Config.reqSize := (congrArg (fun e : Eng => e.req.length) frame).trans h.buffers.req
  have reply := exec_reply_length hu h.buffers.reply
  have dir : u.eng.dir = .output := (exec_dir hu).trans (h.dir.mpr (by rw [he]; rfl))
  have sizes := exec_nreply hu
  have one_byte := exec_nreply_of_flush hu
  obtain ⟨drawn, lasts, hs⟩ | ⟨done, hs⟩ := startReply_cases s u <;> rw [hs]
  · have instant : execTime u.par u.eng ≤ u.time := by
      have line := h.timeline
      rw [onTimeline, he] at line
      obtain ⟨-, -, now, -⟩ := line
      rw [exec_time hu, exec_par hu, now, frame]
      exact le_refl _
    refine ⟨⟨⟨req, reply⟩, ⟨instant, one_byte drawn, rfl⟩, iff_of_true dir rfl, fun _ => lasts, ?_⟩, by simp⟩
    exact fun _ hx => absurd rfl hx
  · have no_flush : u.hold.flushEnd ≤ u.time := by
      obtain same | elapsed := done
      · obtain hold | ⟨aw, data, -, -, -, -, hold⟩ := exec_flush_cases hu
        · rw [hold, exec_time hu]
          exact h.notHeld (by simp [he]) (by simp [he])
        · rw [hold] at same
          exact absurd same (Nat.succ_ne_self _)
      · exact elapsed
    refine ⟨⟨⟨req, reply⟩, ⟨le_refl _, ?_, ?_, sizes⟩, iff_of_true dir rfl, nofun, fun _ _ => no_flush⟩, by simp⟩
    · show u.time < u.time + Config.tByte * u.eng.nreply
      exact Nat.lt_add_of_pos_right (Nat.mul_pos (by decide) (exec_nreply_pos hu))
    · show 0 = (u.time - u.time) / Config.tByte
      rw [Nat.sub_self]
      rfl

/-! ### A step -/

/-- The other agents leave the engine where it stands, or start it with no flush in progress; so they keep its place at every
time not before the present one. -/
theorem actorsAct_engineOk {now : Nat} (as : List Actor) (hn : s.time ≤ now) (h : EngineOk (s.withTime now)) :
    EngineOk ((actorsAct as s).withTime now) := by
  have frame := actorsAct_frame as s
  rw [engineOk_iff] at h ⊢
  simp only [State.withTime_par, State.withTime_hold, State.withTime_time, State.withTime_eng] at h ⊢
  rw [frame.par]
  obtain same | ⟨hu, no_flush, idle | fatal⟩ := actorsAct_eng as s
  · rw [same]
    by_cases hu : s.eng.fsm = .uninit
    · exact ⟨h.req, h.reply, h.timeline, h.dir, by simp [hu], fun hx => absurd hu hx⟩
    · rwa [frame.hold hu]
  · rw [idle]
    rw [frame.time] at no_flush
    exact ⟨h.req, h.reply, trivial, by simp [fsmDrives], nofun, fun _ _ => no_flush.trans hn⟩
  · have dir := h.dir
    rw [hu] at dir
    rw [fatal]
    rw [frame.time] at no_flush
    exact ⟨h.req, h.reply, trivial, dir, nofun, fun _ _ => no_flush.trans hn⟩

theorem linePhase_engineOk (h : EngineOk v) (he : v.eng.fsm ≠ .exec) :
    EngineOk ((linePhase v).withTime (v.time + 1)) := by
  rw [engineOk_iff] at h ⊢
  exact (timeline_advance h he).sample _

/-- The engine's action leaves it on the timeline of the next microsecond. -/
theorem engineAct_engineOk (h : EngineOk s) (ht : engineAct s = .next t) : EngineOk (t.withTime (t.time + 1)) := by
  obtain ⟨he, rfl⟩ | ⟨he, i, rest, u, -, hu, rfl⟩ := engineAct_cases ht
  · exact linePhase_engineOk h he
  · obtain ⟨started, not_exec⟩ := timeline_startReply h he hu
    exact linePhase_engineOk started not_exec

theorem resetBlock_engineOk (s : State) : EngineOk (resetBlock s) :=
  ⟨⟨rfl, rfl⟩, trivial, by simp [resetBlock, State.reset, Eng.reset, fsmDrives], nofun, fun hx => absurd rfl hx⟩

/-- Settles O51 (R171, R184; 60_exceptions R300): the agents before the engine keep its place, its action moves it on by one
microsecond, and the agents after it keep that. -/
theorem stepKeepsEngineOnTimeline : Obligations.StepKeepsEngineOnTimeline := by
  intro s t h ht
  obtain ⟨-, rfl⟩ | ⟨-, -, u, hu, rfl⟩ := step_cases ht
  · exact resetBlock_engineOk _
  · have opened : EngineOk ((openMicro s).withTime s.time) :=
      ⟨⟨h.buffers.req, h.buffers.reply⟩, h.timeline, h.dir, h.flushing, h.notHeld⟩
    have before : EngineOk ((microBefore s).withTime s.time) :=
      actorsAct_engineOk (s := openMicro s) _ (le_refl s.time) opened
    have time : (microBefore s).time = s.time := microBefore_frame.time
    rw [← time, State.withTime_self] at before
    exact actorsAct_engineOk _ (Nat.le_succ u.time) (engineAct_engineOk before hu)

/-- Settles O52 (10_state R43). -/
theorem resetMeetsTheInvariants : Obligations.ResetMeetsTheInvariants := by
  refine ⟨⟨withinMasks_zero _, withinMasks_zero _, withinMasks_zero _⟩, ⟨by decide, by decide, rfl⟩,
    ⟨by decide, le_refl 0, le_refl 0⟩, ⟨rfl, rfl, nofun⟩, ?_⟩
  exact ⟨⟨rfl, rfl⟩, trivial, by decide, nofun, fun hx => absurd rfl hx⟩

end Sys2Proof.Machine
end

section
/-! PROOFS. A microsecond without host calls: every handler that is due runs exactly once and the sampler ticks exactly when it
is due, whatever order the agents act in (00_scope R12, 42_quadrature_decoder R203, 45_sampler R270, R271). -/

namespace Sys2Proof.Machine

variable {o c s t w : State}

/-! ### Whoever is listed is no longer due -/

theorem axisDue_congr {a : AxisId} (qd : c.qdInit = o.qdInit) (held_eq : held c = held o) (pins : c.pins = o.pins)
    (ax : c.ax a = o.ax a) : axisDue a c = axisDue a o := by
  have same_phase : phase a c = phase a o := by cases a <;> rw [phase, phase, pins]
  rw [axisDue, axisDue, qd, held_eq, same_phase, ax]

theorem held_congr (time : c.time = o.time) (hold : c.hold = o.hold) : held c = held o := by
  rw [held, held, time, hold]

theorem phase_congr (a : AxisId) (pins : c.pins = o.pins) : phase a c = phase a o := by
  cases a <;> rw [phase, phase, pins]

/-- A handler that has run has the phase of the pins. -/
theorem axisDue_axisHandler (a : AxisId) (c : State) : axisDue a (axisHandler a c) = false := by
  have same_phase : phase a (axisHandler a c) = phase a c := phase_congr a (axisHandler_frame a c).pins
  rw [axisDue, same_phase, axisHandler, State.withAx_ax, bne_self_eq_false, Bool.and_false]

theorem axisDue_actorAct (x : Actor) (a : AxisId) (hc : c.env.calls = []) :
    axisDue a (actorAct x c) = (axisDue a c && decide (x ≠ .axis a)) := by
  have quiet := actorAct_quiet x hc
  have frame := actorAct_frame x c
  have kept : (actorAct x c).ax a = c.ax a → axisDue a (actorAct x c) = axisDue a c :=
    axisDue_congr quiet.qdInit (held_congr frame.time quiet.hold) frame.pins
  cases x with
  | host => rw [kept (by rw [actorAct, hostAct_of_no_calls hc]), decide_eq_true (by simp), Bool.and_true]
  | sampler =>
    rw [kept ?_, decide_eq_true (by simp), Bool.and_true]
    rw [actorAct]
    split
    · rw [samplerTick_eq, State.withSmp_ax, State.withSnap_ax, State.withBtn_ax]
    · rfl
  | axis b =>
    by_cases hb : a = b
    · subst hb
      rw [decide_eq_false (by simp), Bool.and_false]
      cases due : axisDue a c
      · rwa [actorAct, due, if_neg Bool.false_ne_true]
      · rw [actorAct, due, if_pos rfl, axisDue_axisHandler]
    · rw [kept ?_, decide_eq_true (by simp [Ne.symm hb]), Bool.and_true]
      rw [actorAct]
      split
      · exact State.withAx_ax_ne _ _ _ _ hb
      · rfl

/-- A tick is followed by the sample period. -/
theorem samplerDue_samplerTick (c : State) : samplerDue (samplerTick c) = false := by
  have later : ¬ (samplerTick c).smpNext ≤ (samplerTick c).time := by
    rw [samplerTick_eq]
    exact not_le.mpr (Nat.lt_add_of_pos_right (by decide : 0 < Config.samplePeriodUs))
  rw [samplerDue, decide_eq_false later, Bool.false_and]

theorem samplerDue_actorAct (x : Actor) (hc : c.env.calls = []) :
    samplerDue (actorAct x c) = (samplerDue c && decide (x ≠ .sampler)) := by
  cases x with
  | host => rw [actorAct, hostAct_of_no_calls hc, decide_eq_true (by simp), Bool.and_true]
  | axis b =>
    rw [decide_eq_true (by simp), Bool.and_true, actorAct]
    split
    · rw [axisHandler, samplerDue, samplerDue, held, held, State.withAx_smpNext, State.withAx_time, State.withAx_hold]
    · rfl
  | sampler =>
    rw [decide_eq_false (by simp), Bool.and_false]
    cases due : samplerDue c
    · rwa [actorAct, due, if_neg Bool.false_ne_true]
    · rw [actorAct, due, if_pos rfl, samplerDue_samplerTick]

/-- After everyone who was due has been listed, nobody is due. -/
theorem agentsIdle_of_listed (as : List Actor) (hc : c.env.calls = [])
    (axes : ∀ a, axisDue a c = true → Actor.axis a ∈ as) (sampler : samplerDue c = true → Actor.sampler ∈ as) :
    AgentsIdle (actorsAct as c) := by
  induction as generalizing c with
  | nil =>
    exact ⟨hostAct_of_no_calls hc, fun a => Bool.eq_false_iff.mpr fun due => List.not_mem_nil (axes a due),
      Bool.eq_false_iff.mpr fun due => List.not_mem_nil (sampler due)⟩
  | cons x as ih =>
    refine ih (by rw [(actorAct_quiet x hc).env, hc]) (fun a due => ?_) fun due => ?_
    · rw [axisDue_actorAct x a hc, Bool.and_eq_true, decide_eq_true_iff] at due
      exact (List.mem_cons.mp (axes a due.1)).resolve_left due.2.symm
    · rw [samplerDue_actorAct x hc, Bool.and_eq_true, decide_eq_true_iff] at due
      exact (List.mem_cons.mp (sampler due.1)).resolve_left due.2.symm

theorem agentsIdle_after_all (listed : List Actor) (hc : c.env.calls = []) :
    AgentsIdle (actorsAct (listed ++ actorsAll c) c) := by
  refine agentsIdle_of_listed _ hc (fun a _ => ?_) fun _ => ?_
  · cases a <;> simp [actorsAll]
  · simp [actorsAll]

/-! ### What the agents have made of the state they found -/

/-- What the handler of axis `a` makes of its axis, if it is due (R203). -/
def axisTurn (a : AxisId) (o : State) : Axis := if axisDue a o = true then (axisHandler a o).ax a else o.ax a

/-- The sampler has ticked once on what it found in `o`, before or after the handlers (R271). -/
structure SamplerTicked (o c : State) : Prop where
  due : samplerDue o = true
  btn : c.btn = debounce o.time (rawButtons o) o.btn
  buttons : c.snap.buttons = c.btn.committed
  stickX : c.snap.stickX = getAxis .x o ∨ c.snap.stickX = getAxis .x (o.withAx .x (axisTurn .x o))
  stickY : c.snap.stickY = getAxis .y o ∨ c.snap.stickY = getAxis .y (o.withAx .y (axisTurn .y o))
  next : c.smpNext = o.time + 1000

/-- The sampler has not ticked. -/
structure SamplerWaits (o c : State) : Prop where
  btn : c.btn = o.btn
  snap : c.snap = o.snap
  next : c.smpNext = o.smpNext

/-- Somewhere inside a microsecond without host calls that began in `o`. -/
structure InsideMicro (o c : State) : Prop where
  calls : c.env.calls = []
  time : c.time = o.time
  par : c.par = o.par
  pins : c.pins = o.pins
  qdInit : c.qdInit = o.qdInit
  holds : held c = held o
  axis : ∀ a, c.ax a = o.ax a ∨ c.ax a = axisTurn a o
  sampler : SamplerWaits o c ∨ SamplerTicked o c

theorem InsideMicro.refl (hc : o.env.calls = []) : InsideMicro o o :=
  ⟨hc, rfl, rfl, rfl, rfl, rfl, fun _ => .inl rfl, .inl ⟨rfl, rfl, rfl⟩⟩

theorem axisHandler_ax (a : AxisId) (c : State) : (axisHandler a c).ax a =
    { position := (c.ax a).position + qtable (c.ax a).lastPhase (phase a c), lastPhase := phase a c } :=
  State.withAx_ax _ _ _

theorem axisTurn_lastPhase {a : AxisId} (due : axisDue a o = true) : (axisTurn a o).lastPhase = phase a o := by
  rw [axisTurn, if_pos due, axisHandler_ax]

/-- A handler is still due only if its axis is as it was found. -/
theorem InsideMicro.axis_of_due (h : InsideMicro o c) {a : AxisId} (due : axisDue a c = true) :
    c.ax a = o.ax a ∧ axisDue a o = true := by
  have same : c.ax a = o.ax a → c.ax a = o.ax a ∧ axisDue a o = true := fun ax =>
    ⟨ax, by rwa [axisDue_congr h.qdInit h.holds h.pins ax] at due⟩
  obtain ax | ax := h.axis a
  · exact same ax
  · by_cases due' : axisDue a o = true
    · have done : axisDue a c = false := by
        rw [axisDue, ax, axisTurn_lastPhase due', phase_congr a h.pins, bne_self_eq_false, Bool.and_false]
      simp [done] at due
    · exact same (by rw [ax, axisTurn, if_neg due'])

theorem getAxis_congr (a : AxisId) (qd : c.qdInit = o.qdInit) (par : c.par = o.par) (ax : c.ax a = o.ax a) :
    getAxis a c = getAxis a o := by rw [getAxis, getAxis, qd, par, ax]

/-- A stick read at any time in the microsecond: the value before or after the handler. -/
theorem InsideMicro.stick (h : InsideMicro o c) (a : AxisId) :
    getAxis a c = getAxis a o ∨ getAxis a c = getAxis a (o.withAx a (axisTurn a o)) := by
  obtain ax | ax := h.axis a
  · exact .inl (getAxis_congr a h.qdInit h.par ax)
  · refine .inr (getAxis_congr a ?_ ?_ ?_)
    · rw [State.withAx_qdInit, h.qdInit]
    · rw [State.withAx_par, h.par]
    · rw [State.withAx_ax, ax]

theorem rawButtons_congr (par : c.par = o.par) (pins : c.pins = o.pins) : rawButtons c = rawButtons o := by
  rw [rawButtons_eq, rawButtons_eq, par, pins]

theorem SamplerTicked.congr (h : SamplerTicked o c) (btn : w.btn = c.btn) (snap : w.snap = c.snap)
    (next : w.smpNext = c.smpNext) : SamplerTicked o w where
  due := h.due
  btn := btn.trans h.btn
  buttons := by rw [snap, btn]; exact h.buttons
  stickX := by rw [snap]; exact h.stickX
  stickY := by rw [snap]; exact h.stickY
  next := next.trans h.next

theorem InsideMicro.sampler_congr (h : InsideMicro o c) (btn : w.btn = c.btn) (snap : w.snap = c.snap)
    (next : w.smpNext = c.smpNext) : SamplerWaits o w ∨ SamplerTicked o w := by
  obtain waits | ticked := h.sampler
  · exact .inl ⟨btn.trans waits.btn, snap.trans waits.snap, next.trans waits.next⟩
  · exact .inr (ticked.congr btn snap next)

/-- The sampler ticks only where it has not ticked in this microsecond. -/
theorem InsideMicro.tick (h : InsideMicro o c) (due : samplerDue c = true) : SamplerTicked o (samplerTick c) := by
  have now_due : c.smpNext ≤ c.time ∧ held c = false := by simpa [samplerDue] using due
  obtain waits | ticked := h.sampler
  · rw [samplerTick_eq]
    refine ⟨?_, ?_, rfl, h.stick .x, h.stick .y, ?_⟩
    · rw [samplerDue, ← waits.next, ← h.time, ← h.holds]
      exact due
    · show debounce c.time (rawButtons c) c.btn = _
      rw [h.time, rawButtons_congr h.par h.pins, waits.btn]
    · show c.time + 1000 = o.time + 1000
      rw [h.time]
  · have later := ticked.next
    rw [← h.time] at later
    omega

/-- Every action of an agent keeps the account. -/
theorem InsideMicro.act (h : InsideMicro o c) (x : Actor) : InsideMicro o (actorAct x c) := by
  have quiet := actorAct_quiet x h.calls
  have frame := actorAct_frame x c
  have others : (∀ a, (actorAct x c).ax a = o.ax a ∨ (actorAct x c).ax a = axisTurn a o) →
      (SamplerWaits o (actorAct x c) ∨ SamplerTicked o (actorAct x c)) → InsideMicro o (actorAct x c) :=
    fun axis sampler => ⟨by rw [quiet.env, h.calls], frame.time.trans h.time, frame.par.trans h.par,
      frame.pins.trans h.pins, quiet.qdInit.trans h.qdInit, (held_congr frame.time quiet.hold).trans h.holds, axis, sampler⟩
  obtain ha | ⟨op, rest, hcalls, -⟩ | ⟨b, due, ha⟩ | ⟨due, ha⟩ := actorAct_cases x c
  · rwa [ha]
  · simp [h.calls] at hcalls
  · rw [ha] at others ⊢
    refine others (fun a => ?_) (h.sampler_congr (State.withAx_btn _ _ _) (State.withAx_snap _ _ _) (State.withAx_smpNext _ _ _))
    by_cases hb : a = b
    · subst hb
      obtain ⟨ax, due'⟩ := h.axis_of_due due
      rw [axisTurn, if_pos due', axisHandler_ax, axisHandler_ax, ax, phase_congr a h.pins]
      exact .inr rfl
    · rw [axisHandler, State.withAx_ax_ne _ _ _ _ hb]
      exact h.axis a
  · rw [ha] at others ⊢
    refine others (fun a => ?_) (.inr (h.tick due))
    rw [samplerTick_eq, State.withSmp_ax, State.withSnap_ax, State.withBtn_ax]
    exact h.axis a

/-- What nobody acts on any more has been acted on. -/
theorem InsideMicro.axis_of_idle (h : InsideMicro o c) (idle : AgentsIdle c) (a : AxisId) : c.ax a = axisTurn a o := by
  obtain ax | ax := h.axis a
  · have not_due := idle.axis a
    rw [axisDue_congr h.qdInit h.holds h.pins ax] at not_due
    rw [ax, axisTurn, not_due, if_neg Bool.false_ne_true]
  · exact ax

theorem InsideMicro.sampler_of_idle (h : InsideMicro o c) (idle : AgentsIdle c) (due : samplerDue o = true) :
    SamplerTicked o c := by
  obtain waits | ticked := h.sampler
  · have not_due := idle.sampler
    rw [samplerDue, waits.next, h.time, h.holds, ← samplerDue, due] at not_due
    cases not_due
  · exact ticked

/-! ### The engine's action in between -/

/-- The engine's action keeps the account, since its flush, if it makes one, lasts no microsecond. -/
theorem InsideMicro.engine (h : InsideMicro o c) (no_flush : ∀ i rest u, c.eng.fsm = .exec → decode c.eng.req = .ok i rest →
      exec i c = .next u → held u = held c) (hw : engineAct c = .next w) : InsideMicro o w := by
  obtain ⟨-, frame⟩ | ⟨he, i, rest, u, hd, hu, frame⟩ := engineAct_frame hw
  · rw [frame]
    exact ⟨h.calls, h.time, h.par, h.pins, h.qdInit, h.holds, fun a => by cases a; exacts [h.axis .x, h.axis .y],
      h.sampler_congr rfl rfl rfl⟩
  · have held_kept := no_flush i rest u he hd hu
    have command := (exec_frame hu).rest
    rw [frame]
    have axX : u.axX = c.axX := (congrArg State.axX command :)
    have axY : u.axY = c.axY := (congrArg State.axY command :)
    refine ⟨(congrArg (fun r : State => r.env.calls) command).trans h.calls, (exec_time hu).trans h.time,
      (exec_par hu).trans h.par, (exec_pins hu).trans h.pins, (congrArg State.qdInit command).trans h.qdInit,
      held_kept.trans h.holds, fun a => ?_,
      h.sampler_congr (congrArg State.btn command :) (congrArg State.snap command :) (congrArg State.smpNext command :)⟩
    cases a
    · show u.axX = o.axX ∨ u.axX = _
      rw [axX]
      exact h.axis .x
    · show u.axY = o.axY ∨ u.axY = _
      rw [axY]
      exact h.axis .y

/-- A command that starts no flush that lasts leaves nobody held who was free. -/
theorem exec_held_of_no_flush {i : Instr} {rest : List Byte} {u : State} (he : c.eng.fsm = .exec)
    (hd : decode c.eng.req = .ok i rest) (hu : exec i c = .next u) (free : c.hold.flushEnd ≤ c.time)
    (no_flush : engineFlushDue c = false) : held u = held c := by
  have not_held : held c = false := decide_eq_false (not_lt.mpr free)
  obtain same | ⟨aw, data, rfl, hck, acc, due, hold⟩ := exec_flush_cases hu
  · exact held_congr (exec_time hu) same
  · rw [engineFlushDue_of_write he hd, hck, acc, due] at no_flush
    have zero : flushTimeNext c = 0 := by simpa using no_flush
    rw [not_held, held, hold, exec_time hu, zero]
    exact decide_eq_false (lt_irrefl _)

/-- A microsecond without host calls: the agents of the state it ends in have acted on what they found. -/
theorem step_without_calls (hr : (currentInputs s).rst = false) (hcalls : s.env.calls = [])
    (hcalls' : (currentInputs s).calls = []) (no_flush : engineFlushDue (openMicro s) = false)
    (hexec : s.eng.fsm = .exec → s.eng.req.length = 35 ∧ s.hold.flushEnd ≤ s.time)
    (ht : s.time + 1 < Config.timeLimit) :
    ∃ c, step s = .next (c.withTime (s.time + 1)) ∧ InsideMicro (openMicro s) c ∧ AgentsIdle c := by
  have no_calls := openMicro_no_calls hcalls hcalls'
  have acts : ∀ {o c} (as : List Actor), InsideMicro o c → InsideMicro o (actorsAct as c) := fun as h =>
    actorsAct_induction (fun x _ k => k.act x) as _ h
  have before : InsideMicro (openMicro s) (microBefore s) := acts _ (InsideMicro.refl no_calls)
  have quiet := actorsAct_quiet (actorsBefore (openMicro s) (currentInputs s).before) no_calls
  rw [← microBefore] at quiet
  obtain ⟨w, hw, inside⟩ : ∃ w, engineAct (microBefore s) = .next w ∧ InsideMicro (openMicro s) w := by
    by_cases he : s.eng.fsm = .exec
    · obtain ⟨hlen, free⟩ := hexec he
      obtain ⟨i, rest, hd⟩ := decode_total_of_length hlen
      have eng : (microBefore s).eng = s.eng := quiet.eng
      obtain ⟨u, hu⟩ := exec_next i (microBefore s)
      have hw := engineAct_of_exec (s := microBefore s) (by rw [eng, he]) (by rw [eng]; exact hd) hu
      refine ⟨_, hw, before.engine (fun i rest u he' hd' hu' => ?_) hw⟩
      refine exec_held_of_no_flush he' hd' hu' (by rw [quiet.hold, before.time]; exact free) ?_
      have bef := microBefore_started (s := s) (by simp [he])
      rw [engineFlushDue, eng, bef.coalesce, bef.flushTime]
      simp only [bef.accessible]
      exact no_flush
    · have not_exec : (microBefore s).eng.fsm ≠ .exec := by
        rw [quiet.eng]
        exact he
      have hw := engineAct_of_ne_exec not_exec
      exact ⟨_, hw, before.engine (fun _ _ _ he' => absurd he' not_exec) hw⟩
  refine ⟨actorsAct ((currentInputs s).after ++ actorsAll w) w, ?_, acts _ inside, agentsIdle_after_all _ inside.calls⟩
  have time : w.time = s.time := inside.time
  rw [step_micro hr ht, micro, hw, andThen_next, microAfter, time]

/-! ### The two agents -/

theorem axisDue_openMicro_iff (a : AxisId) (s : State) : axisDue a (openMicro s) = true ↔
    s.qdInit = true ∧ s.hold.flushEnd ≤ s.time ∧ phase a (openMicro s) ≠ (s.ax a).lastPhase := by
  have ax : (openMicro s).ax a = s.ax a := by cases a <;> rfl
  rw [axisDue, ax, Bool.and_eq_true, Bool.and_eq_true, bne_iff_ne, and_assoc, held, Bool.not_eq_true', decide_eq_false_iff_not,
    not_lt]
  rfl

/-- Settles O25 (R203): the axis is what the handler makes of it if it was due when the microsecond began. -/
theorem axisHandlerRunsOncePerMicrosecond : Obligations.AxisHandlerRunsOncePerMicrosecond := by
  intro a s hr hcalls hcalls' no_flush hexec ht
  obtain ⟨c, next, inside, idle⟩ := step_without_calls hr hcalls hcalls' no_flush hexec ht
  have ax : (openMicro s).ax a = s.ax a := by cases a <;> rfl
  refine ⟨_, next, ?_⟩
  rw [State.withTime_ax, inside.axis_of_idle idle, axisTurn, axisHandler_ax, ax]
  exact if_congr (axisDue_openMicro_iff a s) rfl rfl

theorem samplerDue_openMicro_iff (s : State) :
    samplerDue (openMicro s) = true ↔ s.smpNext ≤ s.time ∧ s.hold.flushEnd ≤ s.time := by
  rw [samplerDue, Bool.and_eq_true, decide_eq_true_iff, held, Bool.not_eq_true', decide_eq_false_iff_not, not_lt]
  rfl

/-- Settles O30 (R270 to R272): one tick if it was due when the microsecond began, none otherwise. -/
theorem samplerTicksWhenDue : Obligations.SamplerTicksWhenDue := by
  intro s hr hcalls hcalls' no_flush hexec ht
  obtain ⟨c, next, inside, idle⟩ := step_without_calls hr hcalls hcalls' no_flush hexec ht
  have stick_after : ∀ a, getAxis a ((openMicro s).withAx a (axisTurn a (openMicro s))) = getAxis a (c.withTime (s.time + 1)) := by
    intro a
    refine getAxis_congr a ?_ ?_ ?_
    · rw [State.withAx_qdInit, State.withTime_qdInit, inside.qdInit]
    · rw [State.withAx_par, State.withTime_par, inside.par]
    · rw [State.withAx_ax, State.withTime_ax, inside.axis_of_idle idle]
  have stick_before : ∀ a, getAxis a (openMicro s) = getAxis a s := fun a =>
    getAxis_congr a rfl rfl (by cases a <;> rfl)
  refine ⟨_, next, fun due => ?_, fun not_due => ?_⟩
  · have ticked := inside.sampler_of_idle idle ((samplerDue_openMicro_iff s).mpr due)
    have stickX := ticked.stickX
    have stickY := ticked.stickY
    rw [stick_before, stick_after] at stickX stickY
    exact ⟨ticked.btn, ticked.buttons, stickX, stickY, ticked.next⟩
  · obtain waits | ticked := inside.sampler
    · exact ⟨waits.btn, waits.snap, waits.next⟩
    · exact absurd ((samplerDue_openMicro_iff s).mp ticked.due) not_due

end Sys2Proof.Machine
end

section
/-! PROOFS. Runs of several microseconds on the line (41_bit_transceiver R171 to R184): a request received bit by bit, a flush
waited for, a reply sent symbol by symbol. -/

namespace Sys2Proof.Machine

variable {s t c : State} {p : Params} {e : Eng} {bytes req0 : List Byte} {t0 j : Nat}

/-! ### Runs -/

/-- `n` steps of the machine, with the types of `step`. -/
def steps (n : Nat) (s : State) : Result := Host.Core.run Sys2Proof.core n s

theorem steps_succ_eq (n : Nat) (s : State) : steps (n + 1) s = andThen (step s) (steps n) := by
  refine (Host.Core.run.eq_2 Sys2Proof.core s n).trans ?_
  rw [show Sys2Proof.core.step s = step s from rfl]
  cases step s <;> rfl

theorem steps_succ (n : Nat) (h : step s = .next t) :
    steps (n + 1) s = steps n t := by
  rw [steps_succ_eq, h, andThen_next]

theorem steps_add (m n : Nat) (h : steps m s = .next t) :
    steps (m + n) s = steps n t := by
  induction m generalizing s with
  | zero =>
    cases h
    rw [Nat.zero_add]
  | succ m ih =>
    rw [steps_succ_eq, andThen_eq_next] at h
    obtain ⟨u, hu, h⟩ := h
    rw [Nat.add_right_comm, steps_succ (m + n) hu, ih h]

/-- A property that each of the steps `m` to `m + n - 1` takes to its successor. -/
theorem steps_induction {P : Nat → State → Prop} {m n : Nat}
    (next : ∀ j c, m ≤ j → j < m + n → P j c → ∃ t, step c = .next t ∧ P (j + 1) t) (h : P m s) :
    ∃ t, steps n s = .next t ∧ P (m + n) t := by
  induction n generalizing m s with
  | zero => exact ⟨s, rfl, h⟩
  | succ n ih =>
    obtain ⟨u, hu, hP⟩ := next m s (le_refl m) (by omega) h
    obtain ⟨t, ht, hP'⟩ := ih (m := m + 1) (fun j c hm hj => next j c (by omega) (by omega)) hP
    exact ⟨t, by rw [steps_succ n hu, ht], by rwa [show m + (n + 1) = m + 1 + n by omega]⟩

/-! ### The script along a run -/

/-- `c` is what `s` has become after `j` microseconds, as far as `TIME`, the parameters and the script go. -/
structure Along (s : State) (j : Nat) (c : State) : Prop where
  time : c.time = s.time + j
  par : c.par = s.par
  inputs : c.env.inputs = s.env.inputs.drop j

theorem Along.refl (s : State) : Along s 0 s := ⟨rfl, rfl, rfl⟩

theorem Along.inputs_eq (h : Along s j c) (hj : j < s.env.inputs.length) : currentInputs c = s.env.inputs[j] := by
  rw [currentInputs, h.inputs, List.drop_eq_getElem_cons hj]

theorem Along.no_rst {n : Nat} (h : Along s j c) (hn : noRst n s) (hj : j < n) : (currentInputs c).rst = false := by
  by_cases inside : j < s.env.inputs.length
  · rw [h.inputs_eq inside]
    exact hn _ (List.mem_take_iff_getElem.mpr ⟨j, by omega, rfl⟩)
  · rw [currentInputs, h.inputs, List.drop_eq_nil_of_le (not_lt.mp inside)]

/-- The level of the line in the coming microsecond. -/
def lineLevel (c : State) : Bool := !(joyDriveLow c || (currentInputs c).pins.consoleLow)

/-- One more microsecond of a started engine that executes no command. -/
theorem Along.step {n : Nat} (h : Along s j c) (hu : c.eng.fsm ≠ .uninit) (he : c.eng.fsm ≠ .exec) (hn : noRst n s)
    (hj : j < n) (ht : s.time + n < Config.timeLimit) :
    ∃ t, Machine.step c = .next t ∧ Along s (j + 1) t ∧ t.hold = c.hold ∧ t.wire.driveLow = joyDriveLow c
      ∧ t.eng = engSampleLine (lineLevel c) (engAdvance s.par c.hold.flushEnd c.time (lineLevel c) c.eng) := by
  obtain ⟨t, next, turn, before⟩ := step_of_started hu he (h.no_rst hn hj) (by rw [h.time]; omega)
  refine ⟨t, next, ⟨?_, ?_, ?_⟩, turn.hold.trans before.hold, ?_, ?_⟩
  · rw [turn.time, before.time, h.time, Nat.add_assoc]
  · rw [turn.par, before.par, h.par]
  · rw [turn.inputs, before.inputs, h.inputs, List.tail_drop]
  · rw [turn.wire, before.drive]
  · rw [turn.eng, before.eng, before.par, before.hold, before.time, before.level, h.par, lineLevel]

/-! ### Flushing -/

/-- `j` microseconds later, the flush not ended before (R184). -/
structure FlushWaited (s : State) (j : Nat) (c : State) : Prop where
  along : Along s j c
  hold : c.hold = s.hold
  reply : c.eng.reply = s.eng.reply
  nreply : c.eng.nreply = s.eng.nreply
  dir : c.eng.dir = s.eng.dir
  waits : c.time < s.hold.flushEnd →
    c.eng.fsm = .flushing ∧ c.eng.txStart = s.eng.txStart ∧ c.eng.txcount = s.eng.txcount
  ends : c.time = s.hold.flushEnd → c.eng.fsm = .txReply ∧ c.eng.txStart = s.hold.flushEnd ∧ c.eng.txcount = 0
  wire : 0 < j → c.wire.driveLow = false

theorem FlushWaited.step {n : Nat} (h : FlushWaited s j c) (hj : j < n) (flush : s.time + j < s.hold.flushEnd)
    (hn : noRst n s) (ht : s.time + n < Config.timeLimit) : ∃ t, Machine.step c = .next t ∧ FlushWaited s (j + 1) t := by
  have now := h.along.time
  obtain ⟨fsm, txStart, txcount⟩ := h.waits (by rw [now]; exact flush)
  obtain ⟨t, next, along, hold, wire, eng⟩ := h.along.step (by simp [fsm]) (by simp [fsm]) hn hj ht
  have released : joyDriveLow c = false := joyDriveLow_of_silent (by simp [fsm]) (by simp [fsm])
  have time := along.time
  rw [engAdvance_flushing fsm, h.hold] at eng
  rw [released] at wire
  refine ⟨t, next, ?_⟩
  obtain ⟨lasts, hs⟩ | ⟨ended, hs⟩ := flushStep_cases s.hold.flushEnd c.time c.eng <;>
    rw [hs, engSampleLine_of_started (by simp [fsm])] at eng
  · exact ⟨along, hold.trans h.hold, by rw [eng]; exact h.reply, by rw [eng]; exact h.nreply, by rw [eng]; exact h.dir,
      fun _ => by rw [eng]; exact ⟨fsm, txStart, txcount⟩, fun _ => by omega, fun _ => wire⟩
  · have last_instant : t.time = s.hold.flushEnd → c.time + 1 = s.hold.flushEnd := fun _ => by omega
    exact ⟨along, hold.trans h.hold, by rw [eng]; exact h.reply, by rw [eng]; exact h.nreply, by rw [eng]; exact h.dir,
      fun _ => by omega, fun last => by rw [eng]; exact ⟨rfl, last_instant last, rfl⟩, fun _ => wire⟩

/-- Settles O56 (R184, 10_state R27): induction over the microseconds of the flush. -/
theorem lineIsReleasedForTheWholeFlush : Obligations.LineIsReleasedForTheWholeFlush := by
  intro s k fsm flush hn ht
  have start : FlushWaited s 0 s := ⟨Along.refl s, rfl, rfl, rfl, rfl, fun _ => ⟨fsm, rfl, rfl⟩, fun _ => by omega, nofun⟩
  obtain ⟨t, run, h⟩ := steps_induction (m := 0) (n := k + 1)
    (fun j c _ hj hc => hc.step (n := k + 1) (by omega) (by omega) hn ht) start
  rw [Nat.zero_add] at h
  exact ⟨t, run, h.along.time, h.wire (Nat.succ_pos k), h.hold, h.reply, h.nreply, h.dir, h.waits, h.ends⟩

/-! ### The symbols of a frame -/

theorem length_flatMap_blocks {f : Nat → List Bool} (hf : ∀ i, (f i).length = 4) (m : Nat) :
    ((List.range m).flatMap f).length = 4 * m := by
  induction m with
  | zero => rfl
  | succ m ih =>
    rw [List.range_succ, List.flatMap_append, List.length_append, ih, List.flatMap_singleton, hf]
    omega

theorem getD_flatMap_blocks {f : Nat → List Bool} (hf : ∀ i, (f i).length = 4) {m i : Nat} (hi : i < 4 * m) :
    ((List.range m).flatMap f).getD i false = (f (i / 4)).getD (i % 4) false := by
  induction m with
  | zero => omega
  | succ m ih =>
    have length := length_flatMap_blocks hf m
    rw [List.range_succ, List.flatMap_append, List.flatMap_singleton]
    by_cases earlier : i < 4 * m
    · rw [List.getD_append _ _ _ _ (by omega), ih earlier]
    · rw [List.getD_append_right _ _ _ _ (by omega), length, show i / 4 = m by omega, show i % 4 = i - 4 * m by omega]

theorem symbolPulls_getD {y : Symbol} {i : Nat} (hi : i < symbolTime y) :
    (symbolPulls y).getD i false = decide (i < symbolLow y) := by
  simp [symbolPulls, List.getD, hi]

theorem framePulls_eq (bytes : List Byte) : framePulls bytes =
    (List.range (8 * bytes.length)).flatMap fun i => symbolPulls (.bit (frameBit bytes i)) := rfl

theorem symbolPulls_bit_length (v : Bool) : (symbolPulls (.bit v)).length = 4 := by simp [symbolPulls, symbolTime, Config.tBit]

theorem framePulls_length (bytes : List Byte) : (framePulls bytes).length = 32 * bytes.length := by
  rw [framePulls_eq, length_flatMap_blocks fun _ => symbolPulls_bit_length _]
  omega

/-- Microsecond `i` of a frame (R91, R92, R96). -/
theorem framePulls_getD {bytes : List Byte} {i : Nat} (hi : i < 32 * bytes.length) :
    (framePulls bytes).getD i false = decide (i % 4 < symbolLow (.bit (frameBit bytes (i / 4)))) := by
  rw [framePulls_eq, getD_flatMap_blocks (fun _ => symbolPulls_bit_length _) (by omega)]
  exact symbolPulls_getD (Nat.mod_lt i (by decide))

theorem frameBit_take {n i : Nat} (reply : List Byte) (hi : i / 8 < n) : frameBit (reply.take n) i = frameBit reply i := by
  rw [frameBit, frameBit, List.getD_eq_getElem?_getD, List.getElem?_take, if_pos hi, ← List.getD_eq_getElem?_getD]

/-! ### A reply -/

/-- What the wire carries from the start of the reply on. -/
def replyPulls (s : State) : List Bool := framePulls (replyBytes s) ++ symbolPulls .controllerStop

theorem replyBytes_length (h : s.eng.nreply ≤ s.eng.reply.length) : (replyBytes s).length = s.eng.nreply := by
  rw [replyBytes, List.length_take, min_eq_left h]

theorem replyPulls_bit {x : Nat} (h : s.eng.nreply ≤ s.eng.reply.length) (hx : x < 32 * s.eng.nreply) :
    (replyPulls s).getD x false = decide (x % 4 < symbolLow (.bit (frameBit s.eng.reply (x / 4)))) := by
  have length := replyBytes_length h
  rw [replyPulls, List.getD_append _ _ _ _ (by rw [framePulls_length, length]; exact hx),
    framePulls_getD (by rw [length]; exact hx), replyBytes, frameBit_take _ (by omega)]

theorem replyPulls_stop {x : Nat} (h : s.eng.nreply ≤ s.eng.reply.length) (hx : 32 * s.eng.nreply ≤ x)
    (hx' : x < 32 * s.eng.nreply + 3) :
    (replyPulls s).getD x false = decide (x - 32 * s.eng.nreply < symbolLow .controllerStop) := by
  have length := replyBytes_length h
  rw [replyPulls, List.getD_append_right _ _ _ _ (by rw [framePulls_length, length]; exact hx), framePulls_length, length]
  exact symbolPulls_getD (show x - 32 * s.eng.nreply < 3 by omega)

/-- Microsecond `x` of the reply of `s`, `j` microseconds after `s` (R178, R180). -/
structure Sending (s : State) (x j : Nat) (c : State) : Prop where
  along : Along s j c
  now : c.time = s.eng.txStart + x
  reply : c.eng.reply = s.eng.reply
  nreply : c.eng.nreply = s.eng.nreply
  txStart : c.eng.txStart = s.eng.txStart
  bits : x < 32 * s.eng.nreply → c.eng.fsm = .txReply ∧ c.eng.dir = .output
  stop : 32 * s.eng.nreply ≤ x → x < 32 * s.eng.nreply + 3 → c.eng.fsm = .txStop ∧ c.eng.dir = .output
  idle : x = 32 * s.eng.nreply + 3 → c.eng.fsm = .idle ∧ c.eng.dir = .input
  wire : 0 < j → c.wire.driveLow = (replyPulls s).getD (x - 1) false

theorem Sending.bit {n x : Nat} (h : Sending s x j c) (hx : x < 32 * s.eng.nreply)
    (hlen : s.eng.nreply ≤ s.eng.reply.length) (hj : j < n) (hn : noRst n s) (ht : s.time + n < Config.timeLimit) :
    ∃ t, Machine.step c = .next t ∧ Sending s (x + 1) (j + 1) t := by
  obtain ⟨fsm, dir⟩ := h.bits hx
  obtain ⟨t, next, along, -, wire, eng⟩ := h.along.step (by simp [fsm]) (by simp [fsm]) hn hj ht
  have now : t.time = s.eng.txStart + (x + 1) := by rw [along.time, ← Nat.add_assoc, ← h.along.time, h.now, Nat.add_assoc]
  have fsm' : t.eng.fsm = if 32 * s.eng.nreply ≤ x + 1 then .txStop else .txReply := by
    have ends : replyEnd c.eng ≤ c.time + 1 ↔ 32 * s.eng.nreply ≤ x + 1 := by
      rw [replyEnd, h.txStart, h.nreply, h.now, show Config.tByte = 32 from rfl]
      omega
    rw [eng, engSampleLine_fsm, engAdvance_txReply fsm, txStep]
    exact if_congr ends rfl rfl
  have eng' : t.eng = { c.eng with fsm := t.eng.fsm, txcount := t.eng.txcount, lineQ := t.eng.lineQ } := by
    rw [eng, engAdvance_txReply fsm, engSampleLine_eq, txStep]
  have dir' : t.eng.dir = .output := by rw [eng']; exact dir
  refine ⟨t, next, along, now, by rw [eng']; exact h.reply, by rw [eng']; exact h.nreply, by rw [eng']; exact h.txStart,
    fun more => ?_, fun stop _ => ?_, fun idle => by omega, fun _ => ?_⟩
  · rw [fsm', if_neg (by omega)]
    exact ⟨rfl, dir'⟩
  · rw [fsm', if_pos stop]
    exact ⟨rfl, dir'⟩
  · rw [wire, joyDriveLow_txReply fsm dir, h.reply, h.txStart, h.now, Nat.add_sub_cancel_left, Nat.add_sub_cancel,
      replyPulls_bit hlen hx, show Config.tBit = 4 from rfl]

theorem Sending.stopBit {n x : Nat} (h : Sending s x j c) (hx : 32 * s.eng.nreply ≤ x) (hx' : x < 32 * s.eng.nreply + 3)
    (hlen : s.eng.nreply ≤ s.eng.reply.length) (hj : j < n) (hn : noRst n s) (ht : s.time + n < Config.timeLimit) :
    ∃ t, Machine.step c = .next t ∧ Sending s (x + 1) (j + 1) t := by
  obtain ⟨fsm, dir⟩ := h.stop hx hx'
  obtain ⟨t, next, along, -, wire, eng⟩ := h.along.step (by simp [fsm]) (by simp [fsm]) hn hj ht
  have now : t.time = s.eng.txStart + (x + 1) := by rw [along.time, ← Nat.add_assoc, ← h.along.time, h.now, Nat.add_assoc]
  have ends : replyEnd c.eng + symbolTime .controllerStop ≤ c.time + 1 ↔ 32 * s.eng.nreply + 3 ≤ x + 1 := by
    rw [replyEnd, h.txStart, h.nreply, h.now, show Config.tByte = 32 from rfl, show symbolTime .controllerStop = 3 from rfl]
    omega
  rw [engAdvance_txStop fsm] at eng
  have wire' : t.wire.driveLow = (replyPulls s).getD (x + 1 - 1) false := by
    rw [wire, joyDriveLow_txStop fsm dir, h.nreply, h.txStart, h.now, Nat.add_sub_cancel_left, Nat.add_sub_cancel,
      replyPulls_stop hlen hx hx', show Config.tByte = 32 from rfl]
  refine ⟨t, next, ?_⟩
  by_cases last : 32 * s.eng.nreply + 3 ≤ x + 1
  · rw [if_pos (ends.mpr last), engSampleLine_of_started (by simp)] at eng
    exact ⟨along, now, by rw [eng]; exact h.reply, by rw [eng]; exact h.nreply, by rw [eng]; exact h.txStart,
      fun _ => by omega, fun _ _ => by omega, fun _ => by rw [eng]; exact ⟨rfl, rfl⟩, fun _ => wire'⟩
  · rw [if_neg (fun hx => last (ends.mp hx)), engSampleLine_of_started (by simp [fsm])] at eng
    exact ⟨along, now, by rw [eng]; exact h.reply, by rw [eng]; exact h.nreply, by rw [eng]; exact h.txStart,
      fun _ => by omega, fun _ _ => by rw [eng]; exact ⟨fsm, dir⟩, fun _ => by omega, fun _ => wire'⟩

/-- Settles O43 (R178, R180): induction over the microseconds of the reply and the controller stop. -/
theorem replyAppearsOnTheWire : Obligations.ReplyAppearsOnTheWire := by
  intro s d k fsm dir hd hbits hlen hk hn ht
  have start : Sending s (d + 0) 0 s :=
    ⟨Along.refl s, hd, rfl, rfl, rfl, fun _ => ⟨fsm, dir⟩, fun _ _ => by omega, fun _ => by omega, nofun⟩
  obtain ⟨t, run, h⟩ := steps_induction (P := fun j c => Sending s (d + j) j c) (m := 0) (n := k + 1)
    (fun j c _ hj hc => by
      by_cases hx : d + j < 32 * s.eng.nreply
      · exact hc.bit (n := k + 1) hx hlen (by omega) hn ht
      · exact hc.stopBit (n := k + 1) (by omega) (by omega) hlen (by omega) hn ht) start
  rw [Nat.zero_add] at h
  refine ⟨t, run, ?_, h.reply, h.nreply, fun last => h.idle (by omega)⟩
  exact h.wire (Nat.succ_pos k)

/-! ### A request, byte by byte -/

/-- One more bit of a byte, most significant first (R173, R174). -/
theorem shift_in_bit (b : Byte) {m : Nat} (hm : m < 8) :
    (b >>> (8 - m)) <<< 1 ||| (BitVec.ofBool (b.getLsbD (7 - m))).setWidth 8 = b >>> (7 - m) := by
  refine BitVec.eq_of_getLsbD_eq fun k hk => ?_
  rw [BitVec.getLsbD_or, BitVec.getLsbD_shiftLeft, BitVec.getLsbD_ushiftRight, BitVec.getLsbD_ushiftRight, BitVec.getLsbD_setWidth]
  cases k with
  | zero => simp
  | succ k =>
    rw [BitVec.getLsbD_of_ge _ (k + 1) (by omega), show 8 - m + (k + 1 - 1) = 7 - m + (k + 1) by omega]
    simp [hk]

/-- The engine `j` microseconds into the request `bytes`, `req0` being the buffer before it (R173 to R175). -/
structure Receiving (bytes req0 : List Byte) (t0 j : Nat) (e : Eng) : Prop where
  fsm : e.fsm = .rxReq
  start : e.t0 = t0
  rxcount : e.rxcount = j / 32
  rxByte : e.rxByte = bytes.getD (j / 32) 0 >>> (8 - (j % 32 + 1) / 4)
  req : e.req = bytes.take (j / 32) ++ req0.drop (j / 32)
  nreq : 0 < j / 32 → e.nreq = bytes.length

/-- The request is in the buffer, and the engine waits for `Exec` or is there (R175, R176). -/
structure Received (p : Params) (bytes req0 : List Byte) (t0 now : Nat) (e : Eng) : Prop where
  start : e.t0 = t0
  nreq : e.nreq = bytes.length
  req : e.req = bytes ++ req0.drop bytes.length
  place : (now < t0 + 32 * bytes.length + p.stopWait ∧ e.fsm = .stopWait)
    ∨ (now = t0 + 32 * bytes.length + p.stopWait ∧ e.fsm = .dead ∧ e.dir = .output)
    ∨ (now = t0 + 32 * bytes.length + p.stopWait + 1 ∧ e.fsm = .exec ∧ e.dir = .output)

theorem Receiving.sampleLine (h : Receiving bytes req0 t0 j e) (sampled : Bool) :
    Receiving bytes req0 t0 j (engSampleLine sampled e) := by
  rw [engSampleLine_eq]
  exact ⟨h.fsm, h.start, h.rxcount, h.rxByte, h.req, h.nreq⟩

theorem Received.sampleLine {now : Nat} (h : Received p bytes req0 t0 now e) (sampled : Bool) :
    Received p bytes req0 t0 now (engSampleLine sampled e) := by
  rw [engSampleLine_eq]
  exact ⟨h.start, h.nreq, h.req, h.place⟩

/-- The sample of bit `j / 4` shifts it into the byte. -/
theorem Receiving.sample (h : Receiving bytes req0 t0 j e) (hj : j % 32 ≠ 31) {sampled : Bool}
    (bit : j % 4 = 2 → sampled = frameBit bytes (j / 4)) :
    Receiving bytes req0 t0 (j + 1) (rxSample (t0 + j) sampled e) := by
  have same_byte : (j + 1) / 32 = j / 32 := by omega
  have rxByte := h.rxByte
  rw [rxSample, h.start, Nat.add_sub_cancel_left, show Config.tBit = 4 from rfl, show Config.tSample = 2 from rfl]
  split
  · next at_sample =>
    refine ⟨h.fsm, rfl, by rw [same_byte]; exact h.rxcount, ?_, by rw [same_byte]; exact h.req,
      by rw [same_byte]; exact h.nreq⟩
    have count : (j % 32 + 1) / 4 = j / 4 % 8 := by omega
    have count' : 8 - ((j + 1) % 32 + 1) / 4 = 7 - j / 4 % 8 := by omega
    show e.rxByte <<< 1 ||| (BitVec.ofBool sampled).setWidth 8 = _
    rw [rxByte, bit at_sample, frameBit, count, count', same_byte, show j / 4 / 8 = j / 32 by omega,
      shift_in_bit _ (Nat.mod_lt _ (by decide))]
  · next between =>
    have count : ((j + 1) % 32 + 1) / 4 = (j % 32 + 1) / 4 := by omega
    exact ⟨h.fsm, h.start, by rw [same_byte]; exact h.rxcount, by rw [same_byte, count]; exact rxByte,
      by rw [same_byte]; exact h.req, by rw [same_byte]; exact h.nreq⟩

theorem rxSample_of_ne (h : (j - e.t0) % 4 ≠ 2) (sampled : Bool) : rxSample j sampled e = e := if_neg h

theorem take_append_set {q : Nat} (hq : q < bytes.length) (hlen : bytes.length ≤ req0.length) :
    (bytes.take q ++ req0.drop q).set q (bytes.getD q 0) = bytes.take (q + 1) ++ req0.drop (q + 1) := by
  have count : (bytes.take q).length = q := by rw [List.length_take]; omega
  rw [List.set_append_right _ _ (by omega), count, Nat.sub_self, List.drop_eq_getElem_cons (by omega : q < req0.length),
    List.set_cons_zero, List.take_succ_eq_append_getElem hq, List.getD_eq_getElem _ _ hq, List.append_assoc]
  rfl

/-- The last microsecond of a byte stores it (R174, R175). -/
theorem Receiving.store (h : Receiving bytes req0 t0 j e) (hj : j % 32 = 31) (hend : j < 32 * bytes.length)
    (hlen : bytes.length ≤ req0.length) (first : requestLength (bytes.getD 0 0) = bytes.length) :
    Receiving bytes req0 t0 (j + 1) (rxStore e) := by
  have next_byte : (j + 1) / 32 = j / 32 + 1 := by omega
  have whole : e.rxByte = bytes.getD (j / 32) 0 := by
    rw [h.rxByte, show 8 - (j % 32 + 1) / 4 = 0 by omega, BitVec.ushiftRight_zero]
  refine ⟨h.fsm, h.start, ?_, ?_, ?_, fun _ => ?_⟩
  · show e.rxcount + 1 = _
    rw [next_byte, h.rxcount]
  · show (0 : Byte) = _
    rw [show 8 - ((j + 1) % 32 + 1) / 4 = 8 by omega]
    exact (BitVec.ushiftRight_eq_zero (le_refl 8)).symm
  · show e.req.set e.rxcount e.rxByte = _
    rw [h.req, h.rxcount, whole, next_byte]
    exact take_append_set (by omega) hlen
  · show (if e.rxcount = 0 then requestLength e.rxByte else e.nreq) = _
    rw [h.rxcount, whole]
    split
    · next zero => rw [zero, first]
    · next later => exact h.nreq (by omega)

/-- What `rxEnd` makes of a byte just stored: the next byte, or the wait after the last. -/
theorem Receiving.ended (h : Receiving bytes req0 t0 j e) (hj : 0 < j / 32) (whole : j % 32 = 0) (p : Params) :
    (j < 32 * bytes.length → Receiving bytes req0 t0 j (rxEnd p e))
    ∧ (j = 32 * bytes.length → Received p bytes req0 t0 (t0 + j) (rxEnd p e)) := by
  have nreq := h.nreq hj
  have rxcount := h.rxcount
  rw [rxEnd]
  refine ⟨fun more => ?_, fun last => ?_⟩
  · rw [if_neg (by omega)]
    exact h
  · have req : e.req = bytes ++ req0.drop bytes.length := by
      rw [h.req, show j / 32 = bytes.length by omega, List.take_length]
    rw [if_pos (by omega)]
    split
    · next no_wait => exact ⟨h.start, nreq, req, .inr (.inl ⟨by omega, rfl, rfl⟩)⟩
    · next wait => exact ⟨h.start, nreq, req, .inl ⟨by omega, rfl⟩⟩

/-- One microsecond of the request (R173 to R175). -/
theorem Receiving.advance (h : Receiving bytes req0 t0 j e) (hend : j < 32 * bytes.length)
    (hlen : bytes.length ≤ req0.length) (first : requestLength (bytes.getD 0 0) = bytes.length) {sampled : Bool}
    (bit : j % 4 = 2 → sampled = frameBit bytes (j / 4)) (p : Params) :
    (j + 1 < 32 * bytes.length → Receiving bytes req0 t0 (j + 1) (rxStep p (t0 + j) sampled e))
    ∧ (j + 1 = 32 * bytes.length → Received p bytes req0 t0 (t0 + (j + 1)) (rxStep p (t0 + j) sampled e)) := by
  rw [rxStep, h.start, Nat.add_sub_cancel_left, show Config.tByte = 32 from rfl]
  by_cases last : j % 32 = 31
  · rw [if_pos last, rxSample_of_ne (by rw [h.start, Nat.add_sub_cancel_left]; omega)]
    exact (h.store last hend hlen first).ended (by omega) (by omega) p
  · rw [if_neg last]
    exact ⟨fun _ => h.sample last bit, fun _ => by omega⟩

/-- One microsecond of the wait (R175, R176). -/
theorem Received.advance {now flushEnd : Nat} (h : Received p bytes req0 t0 now e) {sampled : Bool}
    (hnow : now < t0 + 32 * bytes.length + p.stopWait + 1) :
    Received p bytes req0 t0 (now + 1) (engAdvance p flushEnd now sampled e) := by
  have ended : requestEnd e = t0 + 32 * bytes.length := by rw [requestEnd, h.start, h.nreq]; rfl
  obtain ⟨wait, fsm⟩ | ⟨over', fsm, dir⟩ | ⟨late, -⟩ := h.place
  · rw [engAdvance_stopWait fsm, ended]
    split
    · exact ⟨h.start, h.nreq, h.req, .inr (.inl ⟨by omega, rfl, rfl⟩)⟩
    · exact ⟨h.start, h.nreq, h.req, .inl ⟨by omega, fsm⟩⟩
  · have instant : execTime p e ≤ now + 1 := by
      rw [execTime, ended, over']
      exact le_refl _
    rw [engAdvance_dead fsm, if_pos instant]
    exact ⟨h.start, h.nreq, h.req, .inr (.inr ⟨by omega, rfl, dir⟩)⟩
  · omega

theorem Received.silent {now : Nat} (h : Received p bytes req0 t0 now e)
    (hnow : now < t0 + 32 * bytes.length + p.stopWait + 1) : e.fsm ≠ .uninit ∧ e.fsm ≠ .exec := by
  obtain ⟨-, fsm⟩ | ⟨-, fsm, -⟩ | ⟨late, -⟩ := h.place
  · simp [fsm]
  · simp [fsm]
  · omega

/-! ### The whole request -/

/-- The console sends `bytes` from the microsecond of `s` on, `n` microseconds without `rst` are to come, and `bytes` is a
request that the buffer holds. -/
structure ConsoleSends (bytes : List Byte) (n : Nat) (s : State) : Prop where
  pulls : ∀ j, j < 32 * bytes.length → ∃ h : j < s.env.inputs.length,
    s.env.inputs[j].pins.consoleLow = (framePulls bytes).getD j false
  quiet : noRst n s
  time : s.time + n < Config.timeLimit
  first : requestLength (bytes.getD 0 0) = bytes.length
  fits : bytes.length ≤ s.eng.req.length
  nonempty : 0 < bytes.length

theorem consoleLow_along {n : Nat} (hs : ConsoleSends bytes n s) (h : Along s j c) (hj : j < 32 * bytes.length) :
    (currentInputs c).pins.consoleLow = decide (j % 4 < symbolLow (.bit (frameBit bytes (j / 4)))) := by
  obtain ⟨inside, pull⟩ := hs.pulls j hj
  rw [h.inputs_eq inside, pull, framePulls_getD hj]

/-- In the sample point of a bit the console pulls exactly for a 0 (R91, R92). -/
theorem level_at_sample (v : Bool) : (!decide (2 < symbolLow (.bit v))) = v := by cases v <;> rfl

/-- The falling edge of the first bit (R172). -/
theorem request_starts {n : Nat} (hs : ConsoleSends bytes n s) (hn : 0 < n) (fsm : s.eng.fsm = .idle)
    (lineQ : s.eng.lineQ = true) :
    ∃ t, step s = .next t ∧ Along s 1 t ∧ Receiving bytes s.eng.req s.time 1 t.eng := by
  obtain ⟨t, next, along, -, -, eng⟩ := (Along.refl s).step (by simp [fsm]) (by simp [fsm]) hs.quiet hn hs.time
  have nonempty := hs.nonempty
  have low : (currentInputs s).pins.consoleLow = true := by
    rw [consoleLow_along hs (Along.refl s) (by omega)]
    exact decide_eq_true (symbolLow_pos _)
  have level : lineLevel s = false := by rw [lineLevel, low, Bool.or_true, Bool.not_true]
  rw [engAdvance_idle fsm, level] at eng
  obtain ⟨-, hr⟩ | ⟨quiet, -⟩ := rxStart_cases s.time false s.eng
  · rw [hr, engSampleLine_of_started (by simp)] at eng
    refine ⟨t, next, along, ?_⟩
    rw [eng]
    refine ⟨rfl, rfl, rfl, ?_, rfl, nofun⟩
    exact (BitVec.ushiftRight_eq_zero (le_refl 8)).symm
  · exact absurd ⟨lineQ, rfl⟩ quiet

/-- A microsecond of the request, on the line. -/
theorem request_continues {n : Nat} (hs : ConsoleSends bytes n s) (hn : j < n) (hj : j < 32 * bytes.length)
    (h : Along s j c) (hc : Receiving bytes s.eng.req s.time j c.eng) :
    ∃ t, step c = .next t ∧ Along s (j + 1) t
      ∧ (j + 1 < 32 * bytes.length → Receiving bytes s.eng.req s.time (j + 1) t.eng)
      ∧ (j + 1 = 32 * bytes.length → Received s.par bytes s.eng.req s.time (s.time + (j + 1)) t.eng) := by
  obtain ⟨t, next, along, -, -, eng⟩ := h.step (by simp [hc.fsm]) (by simp [hc.fsm]) hs.quiet hn hs.time
  have released : joyDriveLow c = false := joyDriveLow_of_silent (by simp [hc.fsm]) (by simp [hc.fsm])
  have bit : j % 4 = 2 → lineLevel c = frameBit bytes (j / 4) := fun at_sample => by
    rw [lineLevel, released, Bool.false_or, consoleLow_along hs h hj, at_sample, level_at_sample]
  obtain ⟨more, last⟩ := hc.advance hj hs.fits hs.first bit s.par
  rw [engAdvance_rxReq hc.fsm, h.time] at eng
  refine ⟨t, next, along, ?_⟩
  rw [eng]
  exact ⟨fun hx => (more hx).sampleLine _, fun hx => (last hx).sampleLine _⟩

/-- A microsecond of the wait after the request. -/
theorem wait_continues {n : Nat} (hs : ConsoleSends bytes n s) (hn : j < n)
    (hj : j < 32 * bytes.length + s.par.stopWait + 1) (h : Along s j c)
    (hc : Received s.par bytes s.eng.req s.time (s.time + j) c.eng) :
    ∃ t, step c = .next t ∧ Along s (j + 1) t ∧ Received s.par bytes s.eng.req s.time (s.time + (j + 1)) t.eng := by
  obtain ⟨hu, he⟩ := hc.silent (by omega)
  obtain ⟨t, next, along, -, -, eng⟩ := h.step hu he hs.quiet hn hs.time
  refine ⟨t, next, along, ?_⟩
  rw [eng, h.time]
  exact (hc.advance (by omega)).sampleLine _

/-- The request received and waited for: the engine is at the end of its wait. -/
theorem request_reaches_exec (hs : ConsoleSends bytes (32 * bytes.length + s.par.stopWait + 1) s)
    (fsm : s.eng.fsm = .idle) (lineQ : s.eng.lineQ = true) :
    ∃ t, steps (32 * bytes.length + s.par.stopWait + 1) s = .next t
      ∧ Along s (32 * bytes.length + s.par.stopWait + 1) t
      ∧ Received s.par bytes s.eng.req s.time (s.time + (32 * bytes.length + s.par.stopWait + 1)) t.eng := by
  have nonempty := hs.nonempty
  obtain ⟨a, step_a, along_a, receiving_a⟩ := request_starts hs (by omega) fsm lineQ
  obtain ⟨b, run_b, along_b, -, received_b⟩ := steps_induction (s := a)
    (P := fun j c => Along s j c ∧ (j < 32 * bytes.length → Receiving bytes s.eng.req s.time j c.eng)
      ∧ (j = 32 * bytes.length → Received s.par bytes s.eng.req s.time (s.time + j) c.eng))
    (m := 1) (n := 32 * bytes.length - 1)
    (fun j c _ hj hc => request_continues hs (by omega) (by omega) hc.1 (hc.2.1 (by omega)))
    ⟨along_a, fun _ => receiving_a, fun _ => by omega⟩
  have whole : 1 + (32 * bytes.length - 1) = 32 * bytes.length := by omega
  rw [whole] at along_b received_b
  obtain ⟨t, run_t, along_t, received_t⟩ := steps_induction (s := b)
    (P := fun j c => Along s j c ∧ Received s.par bytes s.eng.req s.time (s.time + j) c.eng)
    (m := 32 * bytes.length) (n := s.par.stopWait + 1)
    (fun j c _ hj hc => wait_continues hs (by omega) (by omega) hc.1 hc.2) ⟨along_b, received_b rfl⟩
  have run_ab : steps (32 * bytes.length) s = .next b := by
    rw [← whole, Nat.add_comm, steps_succ _ step_a, run_b]
  exact ⟨t, by rw [Nat.add_assoc, steps_add _ _ run_ab, run_t], by rwa [Nat.add_assoc],
    by rwa [Nat.add_assoc (32 * bytes.length)]⟩

theorem encode_getD_zero (i : Instr) : (encode i).getD 0 0 = (encode i).headD 0 := by cases i <;> rfl

/-- The script of the obligation sends the request of the command. -/
theorem consoleSends_encode {i : Instr} {us vs : List Inputs} (hwf : i.wellFormed = true)
    (hreq : s.eng.req.length = 35) (inputs : s.env.inputs = us ++ vs)
    (pulls : us.map (fun u => u.pins.consoleLow) = framePulls (encode i)) (hus : ∀ u ∈ us, u.rst = false)
    (hvs : ∀ u ∈ vs.take (s.par.stopWait + 1), u.rst = false)
    (ht : s.time + (32 * (encode i).length + s.par.stopWait + 1) < Config.timeLimit) :
    ConsoleSends (encode i) (32 * (encode i).length + s.par.stopWait + 1) s := by
  have count : us.length = 32 * (encode i).length := by
    rw [← framePulls_length, ← pulls, List.length_map]
  have length := length_encode hwf
  refine ⟨fun j hj => ?_, fun u hu => ?_, ht, by rw [encode_getD_zero, length], ?_, ?_⟩
  · have inside : j < us.length := by omega
    refine ⟨by rw [inputs, List.length_append]; omega, ?_⟩
    have at_j : (us.map fun u => u.pins.consoleLow).getD j false = us[j].pins.consoleLow := by
      rw [List.getD_eq_getElem _ _ (by rw [List.length_map]; exact inside), List.getElem_map]
    simp only [inputs, List.getElem_append_left inside]
    rw [← pulls, at_j]
  · rw [inputs, Nat.add_assoc, ← count, List.take_length_add_append, List.mem_append] at hu
    exact hu.elim (hus u) (hvs u)
  · rw [hreq, length]
    exact requestLength_le _
  · rw [length]
    exact requestLength_pos _

/-- Settles O42 (R172 to R176, 30_encoding R111): the falling edge, the bits of each byte, the stop wait and the dead time; then
the buffer holds the encoding, which decodes to the command. -/
theorem wireRequestReachesExec : Obligations.WireRequestReachesExec := by
  intro i s us vs hwf fsm lineQ hreq inputs pulls hus hvs ht
  have sends := consoleSends_encode hwf hreq inputs pulls hus hvs ht
  obtain ⟨t, run, along, received⟩ := request_reaches_exec sends fsm lineQ
  obtain ⟨early, -⟩ | ⟨early, -⟩ | ⟨-, exec, dir⟩ := received.place
  · omega
  · omega
  · exact ⟨t, _, run, exec, dir, received.start, received.nreq, along.time, by rw [received.req]; exact decode_encode hwf _⟩

end Sys2Proof.Machine
end

section
/-! PROOFS. The orchestrator's waiting calls (45_sampler R275 to R278, 70_reset R334): the calls before a formatting `InitPak`
are performed, those behind it wait for the end of its flush. -/

namespace Sys2Proof.Machine

variable {s t c : State}

theorem actorsAct_append (as bs : List Actor) (c : State) : actorsAct (as ++ bs) c = actorsAct bs (actorsAct as c) := by
  induction as generalizing c with
  | nil => rfl
  | cons a as ih => exact ih (actorAct a c)

/-- The host operations of a list, in order. -/
def hostOps (ops : List HostOp) (c : State) : State := ops.foldl (fun c op => hostOp op c) c

theorem hostOps_cons (op : HostOp) (ops : List HostOp) (c : State) : hostOps (op :: ops) c = hostOps ops (hostOp op c) := rfl

/-- `c` with other waiting calls. -/
def withCalls (calls : List HostOp) (c : State) : State := c.withEnv { c.env with calls := calls }

theorem actorAct_host {op : HostOp} {rest : List HostOp} (hcalls : c.env.calls = op :: rest)
    (free : orchestratorBusy c = false) : actorAct .host c = hostOp op (withCalls rest c) := by
  rw [actorAct, hostAct, hcalls]
  exact if_neg (by simp [free])

/-! ### Operations that touch neither the store nor the engine -/

/-- The host operations other than `InitPak` and `InitEngine`. -/
def Harmless (op : HostOp) : Prop := op ≠ .initPak ∧ op ≠ .initEngine

theorem hostOp_harmless {op : HostOp} (h : Harmless op) (c : State) : hostOp op c =
    { c with
      info := (hostOp op c).info
      axX := (hostOp op c).axX
      axY := (hostOp op c).axY
      qdInit := (hostOp op c).qdInit
      btn := (hostOp op c).btn } := by
  cases op with
  | initPak => exact absurd rfl h.1
  | initEngine => exact absurd rfl h.2
  | initDecoder => rfl
  | initButtons => rfl
  | engineReset => rfl
  | setCenter => rfl

theorem hostOp_withCalls {op : HostOp} (h : Harmless op) (calls : List HostOp) (c : State) :
    hostOp op (withCalls calls c) = withCalls calls (hostOp op c) := by
  cases op with
  | initPak => exact absurd rfl h.1
  | initEngine => exact absurd rfl h.2
  | initDecoder => rfl
  | initButtons => rfl
  | engineReset => rfl
  | setCenter => rfl

theorem hostOps_harmless {ops : List HostOp} (h : ∀ op ∈ ops, Harmless op) (c : State) : hostOps ops c =
    { c with
      info := (hostOps ops c).info
      axX := (hostOps ops c).axX
      axY := (hostOps ops c).axY
      qdInit := (hostOps ops c).qdInit
      btn := (hostOps ops c).btn } := by
  induction ops generalizing c with
  | nil => rfl
  | cons op ops ih =>
    have one := hostOp_harmless (h op List.mem_cons_self) c
    have others := ih (fun x hx => h x (List.mem_cons_of_mem _ hx)) (hostOp op c)
    rw [hostOps_cons]
    generalize hostOps ops (hostOp op c) = w at others ⊢
    rw [one] at others
    rw [others]

theorem orchestratorBusy_harmless {op : HostOp} (h : Harmless op) (c : State) :
    orchestratorBusy (hostOp op c) = orchestratorBusy c := by
  rw [hostOp_harmless h]
  rfl

theorem hostOps_withCalls {ops : List HostOp} (h : ∀ op ∈ ops, Harmless op) (calls : List HostOp) (c : State) :
    hostOps ops (withCalls calls c) = withCalls calls (hostOps ops c) := by
  induction ops generalizing c with
  | nil => rfl
  | cons op ops ih =>
    rw [hostOps_cons, hostOp_withCalls (h op List.mem_cons_self), ih fun x hx => h x (List.mem_cons_of_mem _ hx),
      hostOps_cons]

/-- The orchestrator performs a list of harmless calls one after another. -/
theorem actorsAct_harmless {ops rest : List HostOp} (h : ∀ op ∈ ops, Harmless op) (hcalls : c.env.calls = ops ++ rest)
    (free : orchestratorBusy c = false) :
    actorsAct (List.replicate ops.length .host) c = withCalls rest (hostOps ops c) := by
  induction ops generalizing c with
  | nil =>
    rw [withCalls, ← show c.env.calls = rest from hcalls]
    rfl
  | cons op ops ih =>
    have harmless := h op List.mem_cons_self
    have act : actorAct .host c = hostOp op (withCalls (ops ++ rest) c) := actorAct_host hcalls free
    have calls : (hostOp op (withCalls (ops ++ rest) c)).env.calls = ops ++ rest := by
      rw [hostOp_env]
      rfl
    have free' : orchestratorBusy (hostOp op (withCalls (ops ++ rest) c)) = false := by
      rw [orchestratorBusy_harmless harmless]
      exact free
    have others := fun x hx => h x (List.mem_cons_of_mem op hx)
    rw [List.length_cons, List.replicate_succ, actorsAct, act, ih others calls free', hostOp_withCalls harmless,
      hostOps_withCalls others, hostOps_cons]
    rfl

/-! ### The microsecond of a formatting InitPak -/

/-- The state after the calls before a formatting `InitPak` and the `InitPak` itself, with those behind it waiting. -/
def formatted (before behind : List HostOp) (s : State) : State :=
  initPakBody (withCalls behind (hostOps before (openMicro s)))

/-- What that state is, spelled out (44_pak_store R241, R245, R247). -/
theorem formatted_eq {before : List HostOp} (h : ∀ op ∈ before, Harmless op) (behind : List HostOp)
    (blank : flashBlank s.flash = true) : formatted before behind s =
      { openMicro s with
        info := (hostOps before (openMicro s)).info
        axX := (hostOps before (openMicro s)).axX
        axY := (hostOps before (openMicro s)).axY
        qdInit := (hostOps before (openMicro s)).qdInit
        btn := (hostOps before (openMicro s)).btn
        env := { (openMicro s).env with calls := behind }
        flash := pakToFlash formattedPak
        pak := { buf := formattedPak, dirty := false, lastFlush := s.time, ready := true }
        hold := { flushEnd := s.time + flushTimeNext s, draws := s.hold.draws + 1, times := s.hold.times.tail } } := by
  have harmless := hostOps_harmless h (openMicro s)
  rw [formatted]
  generalize hostOps before (openMicro s) = w at harmless ⊢
  obtain ⟨-, format⟩ | ⟨used, -⟩ := initPakBody_cases (s := withCalls behind w)
  · rw [format]
    generalize w.info = info at harmless ⊢
    generalize w.axX = axX at harmless ⊢
    generalize w.axY = axY at harmless ⊢
    generalize w.qdInit = qdInit at harmless ⊢
    generalize w.btn = btn at harmless ⊢
    subst harmless
    rfl
  · rw [harmless] at used
    exact absurd (blank.symm.trans used) (by simp)

/-- An `InitPak` in `Uninit` on a blank flash is among the calls of this microsecond, with only harmless ones before it. -/
structure Formatting (before behind : List HostOp) (s : State) : Prop where
  calls : s.env.calls ++ (currentInputs s).calls = before ++ .initPak :: behind
  harmless : ∀ op ∈ before, Harmless op
  uninit : s.eng.fsm = .uninit
  free : s.hold.flushEnd ≤ s.time
  blank : flashBlank s.flash = true
  lasts : 0 < flushTimeNext s

variable {before behind : List HostOp}

theorem Formatting.due (h : Formatting before behind s) : hostFlushDue (openMicro s) = true := by
  have not_engine : ∀ op ∈ before, (op != HostOp.initEngine) = true := fun op hop => bne_iff_ne.mpr (h.harmless op hop).2
  have first : HostOp.initPak ∈ (openMicro s).env.calls.takeWhile (fun op => op != .initEngine) := by
    rw [openMicro_calls, h.calls, List.takeWhile_append_of_pos not_engine]
    exact List.mem_append_right _ (List.mem_cons_self)
  have free : orchestratorBusy (openMicro s) = false := (not_busy_iff (s := openMicro s) h.uninit).mpr h.free
  have uninit : (openMicro s).eng.fsm = .uninit := h.uninit
  rw [hostFlushDue, free, decide_eq_true first, decide_eq_true uninit, show flashBlank (openMicro s).flash = true from h.blank,
    show flushTimeNext (openMicro s) = flushTimeNext s from rfl, decide_eq_true h.lasts]
  rfl

/-- A flush in `Uninit` holds everybody, the orchestrator included. -/
theorem agentsIdle_of_busy (hu : c.eng.fsm = .uninit) (flush : c.time < c.hold.flushEnd) : AgentsIdle c := by
  have held_now : held c = true := decide_eq_true flush
  refine agentsIdle_of_held held_now (hostAct_of_busy ?_)
  rw [orchestratorBusy, held_now, decide_eq_true hu, Bool.and_true]

theorem formatted_uninit (h : Formatting before behind s) : (formatted before behind s).eng.fsm = .uninit := by
  rw [formatted_eq h.harmless behind h.blank]
  exact h.uninit

theorem formatted_holds (h : Formatting before behind s) :
    (formatted before behind s).time < (formatted before behind s).hold.flushEnd := by
  rw [formatted_eq h.harmless behind h.blank]
  exact Nat.lt_add_of_pos_right h.lasts

theorem engineFlushDue_of_ne_exec (h : c.eng.fsm ≠ .exec) : engineFlushDue c = false := by
  rw [engineFlushDue, decide_eq_false h, Bool.false_and, Bool.false_and]

/-- The calls up to the `InitPak` are made before the engine's turn, and nothing else is (log 6). -/
theorem Formatting.microBefore (h : Formatting before behind s) : microBefore s = formatted before behind s := by
  have no_engine_flush : engineFlushDue (openMicro s) = false :=
    engineFlushDue_of_ne_exec (c := openMicro s) (by rw [show (openMicro s).eng = s.eng from rfl, h.uninit]; simp)
  have free : orchestratorBusy (openMicro s) = false := (not_busy_iff (s := openMicro s) h.uninit).mpr h.free
  have count : List.replicate (openMicro s).env.calls.length Actor.host =
      List.replicate before.length .host ++ .host :: List.replicate behind.length .host := by
    rw [openMicro_calls, h.calls, List.length_append, List.length_cons, List.replicate_add, List.replicate_succ]
  have calls := actorsAct_harmless h.harmless (openMicro_calls s ▸ h.calls) free
  have format : actorAct .host (withCalls (.initPak :: behind) (hostOps before (openMicro s))) = formatted before behind s := by
    have harmless := hostOps_harmless h.harmless (openMicro s)
    have uninit : (hostOps before (openMicro s)).eng.fsm = .uninit := by
      rw [harmless]
      exact h.uninit
    have free' : orchestratorBusy (withCalls (.initPak :: behind) (hostOps before (openMicro s))) = false := by
      rw [harmless]
      exact free
    rw [actorAct_host rfl free']
    exact initPak_of_uninit uninit
  rw [Machine.microBefore, actorsBefore, no_engine_flush, if_neg Bool.false_ne_true, h.due, if_pos rfl, count,
    actorsAct_append, calls, actorsAct, format,
    actorsAct_of_idle (agentsIdle_of_busy (formatted_uninit h) (formatted_holds h))]

/-- The state after the microsecond of a formatting `InitPak`. -/
theorem Formatting.step (h : Formatting before behind s) (hr : (currentInputs s).rst = false)
    (ht : s.time + 1 < Config.timeLimit) :
    Machine.step s = .next { formatted before behind s with
      time := s.time + 1
      wire := { driveLow := false, level := !(formatted before behind s).pins.consoleLow } } := by
  have uninit := formatted_uninit h
  have quiet := linePhase_of_not_started (.inl uninit)
  have idle : AgentsIdle (linePhase (formatted before behind s)) := by
    rw [quiet]
    exact agentsIdle_of_busy uninit (formatted_holds h)
  have time : (formatted before behind s).time = s.time := by
    rw [formatted_eq h.harmless behind h.blank]
    rfl
  rw [step_micro hr ht, micro, h.microBefore, engineAct_of_ne_exec (by simp [uninit]), andThen_next, microAfter,
    actorsAct_of_idle idle, quiet, time]
  rfl

/-- A microsecond inside `InitPak`'s flush (log 7). -/
theorem step_of_busy (hu : s.eng.fsm = .uninit) (flush : s.time < s.hold.flushEnd) (hr : (currentInputs s).rst = false)
    (ht : s.time + 1 < Config.timeLimit) :
    Machine.step s = .next { openMicro s with
      time := s.time + 1
      wire := { driveLow := false, level := !(currentInputs s).pins.consoleLow } } := by
  have quiet : linePhase (openMicro s) = _ := linePhase_of_not_started (s := openMicro s) (.inl hu)
  have before : AgentsIdle (openMicro s) := agentsIdle_of_busy hu flush
  have after : AgentsIdle (linePhase (openMicro s)) := by
    rw [quiet]
    exact agentsIdle_of_busy hu flush
  rw [step_of_idle hr ht (by simp [hu]) before after, quiet]
  rfl

/-! ### The calls of the statement -/

/-- If `InitPak` comes before every `InitEngine`, what comes before it is harmless. -/
theorem harmless_before_initPak {calls : List HostOp}
    (h : HostOp.initPak ∈ calls.takeWhile fun op => op != .initEngine) :
    ∀ op ∈ calls.takeWhile fun op => op != .initPak, Harmless op := by
  induction calls with
  | nil => exact nofun
  | cons x calls ih =>
    intro op hop
    by_cases hx : x = .initPak
    · simp [hx] at hop
    · by_cases hx' : x = .initEngine
      · simp [hx'] at h
      · have ne : (x != HostOp.initPak) = true := bne_iff_ne.mpr hx
        have ne' : (x != HostOp.initEngine) = true := bne_iff_ne.mpr hx'
        rw [List.takeWhile_cons, ne, if_pos rfl, List.mem_cons] at hop
        rw [List.takeWhile_cons, ne', if_pos rfl, List.mem_cons] at h
        obtain rfl | hop := hop
        · exact ⟨hx, hx'⟩
        · exact ih (h.resolve_left (Ne.symm hx)) op hop

theorem split_at_initPak {calls : List HostOp} (h : HostOp.initPak ∈ calls) :
    calls = calls.takeWhile (fun op => op != .initPak) ++ .initPak :: (calls.dropWhile fun op => op != .initPak).tail := by
  induction calls with
  | nil => cases h
  | cons x calls ih =>
    by_cases hx : x = .initPak
    · simp [hx]
    · have ne : (x != HostOp.initPak) = true := bne_iff_ne.mpr hx
      rw [List.takeWhile_cons, List.dropWhile_cons, ne, if_pos rfl, if_pos rfl, List.cons_append]
      exact congrArg (x :: ·) (ih ((List.mem_cons.mp h).resolve_left (Ne.symm hx)))

/-- Settles O55 (R334, log 7): the microsecond of the format, and a microsecond of its flush. -/
theorem callsBehindAFormattingInitPakWait : Obligations.CallsBehindAFormattingInitPakWait := by
  rintro s calls hr ht hu rfl
  refine ⟨fun free first blank lasts => ?_, fun flush => ?_⟩
  · have waiting := List.takeWhile_subset _ first
    have formatting : Formatting _ _ s :=
      ⟨split_at_initPak waiting, harmless_before_initPak first, hu, free, (flashBlank_iff s.flash).mpr blank, lasts⟩
    refine ⟨_, _, formatting.step hr ht, rfl, ?_⟩
    rw [formatted_eq formatting.harmless _ formatting.blank]
    exact ⟨rfl, rfl, rfl, rfl, rfl, formattedPak_read, fun _ => pakToFlash_read formattedPak_wf, rfl, rfl, rfl, rfl, rfl,
      rfl, rfl, rfl⟩
  · exact ⟨_, step_of_busy hu flush hr ht, rfl, rfl⟩

end Sys2Proof.Machine
end

section
/-! PROOFS. Performing the waiting calls (45_sampler R278, 70_reset R334): in a microsecond in which nobody else is due they
are all made, in order, and what the engine does in between is independent of them. -/

namespace Sys2Proof.Machine

variable {s t u c w : State}

/-! ### All calls are made -/

theorem actorAct_calls_length (a : Actor) (c : State) : (actorAct a c).env.calls.length ≤ c.env.calls.length := by
  obtain h | ⟨op, rest, hcalls, -, h⟩ | ⟨ax, -, h⟩ | ⟨-, h⟩ := actorAct_cases a c <;> rw [h]
  · rw [hostOp_env, hcalls]
    exact Nat.le_succ _
  · rw [axisHandler, State.withAx_env]
  · rfl

theorem actorsAct_calls_length (as : List Actor) (c : State) :
    (actorsAct as c).env.calls.length ≤ c.env.calls.length := by
  induction as generalizing c with
  | nil => exact le_refl _
  | cons a as ih => exact (ih _).trans (actorAct_calls_length a c)

theorem actorsAct_no_calls (as : List Actor) (h : c.env.calls = []) : (actorsAct as c).env.calls = [] := by
  rw [(actorsAct_quiet as h).env, h]

/-- The orchestrator acting often enough, and never busy, has made all its calls. -/
theorem replicate_host_empties {P : State → Prop} (act : ∀ a c, P c → P (actorAct a c))
    (free : ∀ c, P c → orchestratorBusy c = false) {n : Nat} (h : P c) (hn : c.env.calls.length ≤ n) :
    (actorsAct (List.replicate n .host) c).env.calls = [] := by
  induction n generalizing c with
  | zero => exact List.eq_nil_of_length_eq_zero (Nat.le_zero.mp hn)
  | succ n ih =>
    cases hcalls : c.env.calls with
    | nil => exact actorsAct_no_calls _ hcalls
    | cons op rest =>
      refine ih (act .host c h) ?_
      rw [actorAct_host hcalls (free c h), hostOp_env]
      rw [hcalls] at hn
      exact Nat.le_of_succ_le_succ hn

/-- Everybody still due is listed at the end of a microsecond, every waiting call included. -/
theorem calls_emptied {P : State → Prop} (act : ∀ a c, P c → P (actorAct a c))
    (free : ∀ c, P c → orchestratorBusy c = false) (listed : List Actor) (h : P c) :
    (actorsAct (listed ++ actorsAll c) c).env.calls = [] := by
  rw [actorsAll, actorsAct_append, actorsAct_append]
  exact actorsAct_no_calls _ (replicate_host_empties act free (actorsAct_induction act listed c h)
    (actorsAct_calls_length listed c))

/-! ### What a host operation depends on -/

/-- `c` and `u` agree on what host operations read and write: the store where `store` holds, `ENG.fsm` itself where `fsm`
holds. -/
structure Agrees (store fsm : Prop) (c u : State) : Prop where
  time : c.time = u.time
  pins : c.pins = u.pins
  qdInit : c.qdInit = u.qdInit
  axX : c.axX = u.axX
  axY : c.axY = u.axY
  btn : c.btn = u.btn
  started : c.eng.fsm = .uninit ↔ u.eng.fsm = .uninit
  same : fsm → c.eng.fsm = u.eng.fsm
  pak : store → c.pak = u.pak
  flash : store → c.flash = u.flash
  hold : store → c.hold = u.hold
  info : store → c.info = u.info

variable {store fsm : Prop}

theorem Agrees.refl (c : State) : Agrees store fsm c c :=
  ⟨rfl, rfl, rfl, rfl, rfl, rfl, Iff.rfl, fun _ => rfl, fun _ => rfl, fun _ => rfl, fun _ => rfl, fun _ => rfl⟩

theorem Agrees.trans (h : Agrees store fsm c u) (k : Agrees store fsm u w) : Agrees store fsm c w where
  time := h.time.trans k.time
  pins := h.pins.trans k.pins
  qdInit := h.qdInit.trans k.qdInit
  axX := h.axX.trans k.axX
  axY := h.axY.trans k.axY
  btn := h.btn.trans k.btn
  started := h.started.trans k.started
  same hf := (h.same hf).trans (k.same hf)
  pak hs := (h.pak hs).trans (k.pak hs)
  flash hs := (h.flash hs).trans (k.flash hs)
  hold hs := (h.hold hs).trans (k.hold hs)
  info hs := (h.info hs).trans (k.info hs)

/-- What `InitPak` makes of the store depends on the store and on `TIME` only. -/
theorem initPakBody_store_congr (time : c.time = u.time) (pak : c.pak = u.pak) (flash : c.flash = u.flash)
    (hold : c.hold = u.hold) : (initPakBody c).pak = (initPakBody u).pak ∧ (initPakBody c).flash = (initPakBody u).flash
      ∧ (initPakBody c).hold = (initPakBody u).hold := by
  have draw : flushTimeNext c = flushTimeNext u := by rw [flushTimeNext, flushTimeNext, hold]
  obtain ⟨blank, hc⟩ | ⟨used, hc⟩ := initPakBody_cases (s := c) <;>
    obtain ⟨blank', hu⟩ | ⟨used', hu⟩ := initPakBody_cases (s := u)
  · rw [hc, hu]
    simp [time, hold, draw]
  · rw [flash, used'] at blank
    cases blank
  · rw [flash, blank'] at used
    cases used
  · rw [hc, hu]
    simp [pak, flash, hold]

theorem initPak_agrees (h : Agrees store fsm c u) : Agrees store fsm (initPak c) (initPak u) := by
  by_cases hu : u.eng.fsm = .uninit
  · have frame := initPakBody_frame (s := c)
    have frame' := initPakBody_frame (s := u)
    have congr := fun hs => initPakBody_store_congr h.time (h.pak hs) (h.flash hs) (h.hold hs)
    rw [initPak_of_uninit hu, initPak_of_uninit (h.started.mpr hu)]
    generalize initPakBody c = c' at frame congr ⊢
    generalize initPakBody u = u' at frame' congr ⊢
    rw [frame, frame']
    exact ⟨h.time, h.pins, h.qdInit, h.axX, h.axY, h.btn, h.started, h.same, fun hs => (congr hs).1,
      fun hs => (congr hs).2.1, fun hs => (congr hs).2.2, h.info⟩
  · rwa [initPak_of_started hu, initPak_of_started (fun hc => hu (h.started.mp hc))]

/-- `ENG.fsm` after `InitEngine` (R275). -/
theorem initEngine_fsm (c : State) : (initEngine c).eng.fsm =
    if c.eng.fsm = .uninit then (if c.pins.lineClaimOk = true then .idle else .fatal) else c.eng.fsm := by
  obtain ⟨hu, h⟩ | ⟨hu, claim, h⟩ | ⟨hu, claim, h⟩ := initEngine_cases c <;> rw [h]
  · rw [if_neg hu]
  · rw [if_pos hu, if_pos claim]
    rfl
  · rw [if_pos hu, if_neg (by simp [claim])]
    rfl

theorem initEngine_started (c : State) : (initEngine c).eng.fsm ≠ .uninit := by
  rw [initEngine_fsm]
  split_ifs with hu claim
  · simp
  · simp
  · exact hu

theorem initEngine_agrees (h : Agrees store fsm c u) : Agrees store fsm (initEngine c) (initEngine u) := by
  have same : fsm → (initEngine c).eng.fsm = (initEngine u).eng.fsm := fun hf => by
    rw [initEngine_fsm, initEngine_fsm, h.same hf, h.pins]
  have started := iff_of_false (initEngine_started c) (initEngine_started u)
  have frame := initEngine_eq c
  have frame' := initEngine_eq u
  generalize initEngine c = c' at frame same started ⊢
  generalize initEngine u = u' at frame' same started ⊢
  rw [frame, frame']
  exact ⟨h.time, h.pins, h.qdInit, h.axX, h.axY, h.btn, started, same, h.pak, h.flash, h.hold, h.info⟩

theorem hostOp_agrees (op : HostOp) (h : Agrees store fsm c u) : Agrees store fsm (hostOp op c) (hostOp op u) := by
  cases op with
  | initPak => exact initPak_agrees h
  | initEngine => exact initEngine_agrees h
  | initDecoder =>
    refine ⟨h.time, h.pins, rfl, ?_, ?_, h.btn, h.started, h.same, h.pak, h.flash, h.hold, h.info⟩
    · exact congrArg (fun p => Axis.mk 0 p) (phase_congr .x h.pins)
    · exact congrArg (fun p => Axis.mk 0 p) (phase_congr .y h.pins)
  | initButtons =>
    exact ⟨h.time, h.pins, h.qdInit, h.axX, h.axY, rfl, h.started, h.same, h.pak, h.flash, h.hold, h.info⟩
  | engineReset =>
    refine ⟨h.time, h.pins, h.qdInit, h.axX, h.axY, h.btn, h.started, h.same, h.pak, h.flash, h.hold, fun hs => ?_⟩
    show Info.mk (clearCrcError c.info.status) = Info.mk (clearCrcError u.info.status)
    rw [h.info hs]
  | setCenter =>
    exact ⟨h.time, h.pins, h.qdInit, congrArg (fun a : Axis => { a with position := 0 }) h.axX,
      congrArg (fun a : Axis => { a with position := 0 }) h.axY, h.btn, h.started, h.same, h.pak, h.flash, h.hold, h.info⟩

theorem hostOps_agrees (ops : List HostOp) (h : Agrees store fsm c u) :
    Agrees store fsm (hostOps ops c) (hostOps ops u) := by
  induction ops generalizing c u with
  | nil => exact h
  | cons op ops ih => exact ih (hostOp_agrees op h)

/-- `c` with all its waiting calls made. -/
def performed (c : State) : State := hostOps c.env.calls c

/-- Making the next call takes nothing from what all the calls make. -/
theorem performed_act {op : HostOp} {rest : List HostOp} (hcalls : c.env.calls = op :: rest) :
    Agrees store fsm (performed (hostOp op (withCalls rest c))) (performed c) := by
  have calls : (hostOp op (withCalls rest c)).env.calls = rest := by
    rw [hostOp_env]
    rfl
  rw [performed, calls, performed, hcalls, hostOps_cons]
  refine hostOps_agrees rest (hostOp_agrees op ?_)
  exact ⟨rfl, rfl, rfl, rfl, rfl, rfl, Iff.rfl, fun _ => rfl, fun _ => rfl, fun _ => rfl, fun _ => rfl, fun _ => rfl⟩

/-! ### No call starts a flush that lasts -/

theorem hostFlushDue_iff (c : State) : hostFlushDue c = true ↔
    c.eng.fsm = .uninit ∧ orchestratorBusy c = false
      ∧ HostOp.initPak ∈ c.env.calls.takeWhile (fun op => op != .initEngine)
      ∧ flashBlank c.flash = true ∧ 0 < flushTimeNext c := by
  simp only [hostFlushDue, Bool.and_eq_true, decide_eq_true_iff, Bool.not_eq_true', and_assoc]

theorem orchestratorBusy_of_started (h : c.eng.fsm ≠ .uninit) : orchestratorBusy c = false := by
  rw [orchestratorBusy, decide_eq_false h, Bool.false_and]

theorem hostFlushDue_of_started (h : c.eng.fsm ≠ .uninit) : hostFlushDue c = false :=
  Bool.eq_false_iff.mpr fun due => h ((hostFlushDue_iff c).mp due).1

/-- A formatted flash is not blank: its first byte is the signature's. -/
theorem formatted_not_blank : flashBlank (pakToFlash formattedPak) = false := by
  refine Bool.eq_false_iff.mpr fun blank => ?_
  have first := (flashBlank_iff _).mp blank 0 (by decide)
  rw [pakToFlash_read formattedPak_wf (by decide), formattedPak_read] at first
  exact absurd first (by decide)

/-- The orchestrator is free, and none of its calls starts a flush that lasts. -/
structure Unhindered (c : State) : Prop where
  free : orchestratorBusy c = false
  noFormat : hostFlushDue c = false

theorem Unhindered.of_started (h : c.eng.fsm ≠ .uninit) : Unhindered c :=
  ⟨orchestratorBusy_of_started h, hostFlushDue_of_started h⟩

theorem Unhindered.no_flush (h : Unhindered c) (hu : c.eng.fsm = .uninit)
    (first : HostOp.initPak ∈ c.env.calls.takeWhile fun op => op != .initEngine) (blank : flashBlank c.flash = true) :
    flushTimeNext c = 0 := by
  by_contra lasts
  have due := (hostFlushDue_iff c).mpr ⟨hu, h.free, first, blank, Nat.pos_of_ne_zero lasts⟩
  rw [h.noFormat] at due
  cases due

theorem Unhindered.initPak {rest : List HostOp} (h : Unhindered c) (hcalls : c.env.calls = .initPak :: rest)
    (hu : c.eng.fsm = .uninit) : Unhindered (Machine.initPak (withCalls rest c)) := by
  have used_flash : ∀ v : State, flashBlank v.flash = false → hostFlushDue v = false := fun v used =>
    Bool.eq_false_iff.mpr fun due => by
      obtain ⟨-, -, -, blank, -⟩ := (hostFlushDue_iff v).mp due
      rw [used] at blank
      cases blank
  rw [initPak_of_uninit (s := withCalls rest c) hu]
  obtain ⟨blank, format⟩ | ⟨used, load⟩ := initPakBody_cases (s := withCalls rest c)
  · have zero : flushTimeNext c = 0 := h.no_flush hu (by rw [hcalls]; exact List.mem_cons_self) blank
    rw [format]
    refine ⟨(not_busy_iff ?_).mpr ?_, used_flash _ formatted_not_blank⟩
    · exact hu
    · exact (congrArg (c.time + ·) zero).le
  · rw [load]
    exact ⟨h.free, used_flash _ used⟩

theorem Unhindered.act {op : HostOp} {rest : List HostOp} (h : Unhindered c) (hcalls : c.env.calls = op :: rest) :
    Unhindered (hostOp op (withCalls rest c)) := by
  by_cases hu : c.eng.fsm = .uninit
  · by_cases hp : op = .initPak
    · subst hp
      exact h.initPak hcalls hu
    · by_cases he : op = .initEngine
      · subst he
        exact .of_started (initEngine_started _)
      · have frame := hostOp_harmless ⟨hp, he⟩ (withCalls rest c)
        refine ⟨(orchestratorBusy_harmless ⟨hp, he⟩ _).trans h.free, Bool.eq_false_iff.mpr fun due => ?_⟩
        rw [frame] at due
        obtain ⟨-, -, first, blank, lasts⟩ := (hostFlushDue_iff _).mp due
        have first' : HostOp.initPak ∈ c.env.calls.takeWhile (fun op => op != .initEngine) := by
          rw [hcalls, List.takeWhile_cons, bne_iff_ne.mpr he, if_pos rfl]
          exact List.mem_cons_of_mem _ first
        exact lasts.ne' (h.no_flush hu first' blank)
  · have same := (hostOp_frame op (withCalls rest c)).eng hu
    exact .of_started (by rw [same]; exact hu)

/-! ### Nobody else is due -/

/-- The handlers see the phases they took last, and the sampler's time has not come. -/
structure Settled (c : State) : Prop where
  phases : ∀ a, c.qdInit = true → phase a c = (c.ax a).lastPhase
  early : c.time < c.smpNext

theorem hostOp_snap (op : HostOp) (c : State) : (hostOp op c).snap = c.snap := by
  cases op with
  | initPak => exact (congrArg State.snap (initPak_eq c) :)
  | initEngine => exact (congrArg State.snap (initEngine_eq c) :)
  | initDecoder => rfl
  | initButtons => rfl
  | engineReset => rfl
  | setCenter => rfl

theorem hostOp_smpNext (op : HostOp) (c : State) : (hostOp op c).smpNext = c.smpNext := by
  cases op with
  | initPak => exact (congrArg State.smpNext (initPak_eq c) :)
  | initEngine => exact (congrArg State.smpNext (initEngine_eq c) :)
  | initDecoder => rfl
  | initButtons => rfl
  | engineReset => rfl
  | setCenter => rfl

theorem Settled.congr (h : Settled c) (qdInit : w.qdInit = c.qdInit) (pins : w.pins = c.pins) (axX : w.axX = c.axX)
    (axY : w.axY = c.axY) (time : w.time = c.time) (next : w.smpNext = c.smpNext) : Settled w := by
  refine ⟨fun a hq => ?_, by rw [time, next]; exact h.early⟩
  rw [phase_congr a pins, h.phases a (by rw [← qdInit, hq])]
  cases a
  · exact (congrArg Axis.lastPhase axX).symm
  · exact (congrArg Axis.lastPhase axY).symm

theorem Settled.hostOp (op : HostOp) (h : Settled c) : Settled (hostOp op c) := by
  cases op with
  | initPak =>
    have frame := initPak_eq c
    exact h.congr (congrArg State.qdInit frame :) (congrArg State.pins frame :) (congrArg State.axX frame :)
      (congrArg State.axY frame :) (congrArg State.time frame :) (congrArg State.smpNext frame :)
  | initEngine =>
    have frame := initEngine_eq c
    exact h.congr (congrArg State.qdInit frame :) (congrArg State.pins frame :) (congrArg State.axX frame :)
      (congrArg State.axY frame :) (congrArg State.time frame :) (congrArg State.smpNext frame :)
  | initDecoder => exact ⟨fun a _ => by cases a <;> rfl, h.early⟩
  | initButtons => exact h.congr rfl rfl rfl rfl rfl rfl
  | engineReset => exact h.congr rfl rfl rfl rfl rfl rfl
  | setCenter => exact ⟨fun a hq => by cases a; exacts [h.phases .x hq, h.phases .y hq], h.early⟩

theorem Settled.not_due (h : Settled c) : (∀ a, axisDue a c = false) ∧ samplerDue c = false := by
  refine ⟨fun a => Bool.eq_false_iff.mpr fun due => ?_, ?_⟩
  · simp only [axisDue, Bool.and_eq_true, bne_iff_ne] at due
    exact due.2 (h.phases a due.1.1)
  · rw [samplerDue, decide_eq_false (not_le.mpr h.early), Bool.false_and]

/-! ### A microsecond of calls -/

/-- Inside a microsecond that began in `s` and whose calls make `u` of the opened state: nobody but the orchestrator and the
engine is due, and with its waiting calls made `c` agrees with `u`. -/
structure Draining (s u c : State) : Prop where
  agrees : Agrees (s.eng.fsm ≠ .exec) (s.eng.fsm = .uninit ∧ s.eng.lineQ = false) (performed c) u
  unhindered : Unhindered c
  notDue : (s.eng.fsm ≠ .exec ∧ c.eng.fsm ≠ .uninit ∧ held c = true) ∨ Settled c
  snap : c.snap = s.snap
  smpNext : c.smpNext = s.smpNext

theorem Draining.none_due (h : Draining s u c) : (∀ a, axisDue a c = false) ∧ samplerDue c = false := by
  obtain ⟨-, -, flush⟩ | settled := h.notDue
  · exact ⟨fun a => by rw [axisDue, flush]; simp, by rw [samplerDue, flush]; simp⟩
  · exact settled.not_due

theorem Draining.act (a : Actor) (c : State) (h : Draining s u c) : Draining s u (actorAct a c) := by
  obtain ha | ⟨op, rest, hcalls, -, ha⟩ | ⟨ax, due, ha⟩ | ⟨due, ha⟩ := actorAct_cases a c
  · rwa [ha]
  · rw [ha]
    refine ⟨(performed_act hcalls).trans h.agrees, h.unhindered.act hcalls, ?_, (hostOp_snap op _).trans h.snap,
      (hostOp_smpNext op _).trans h.smpNext⟩
    obtain ⟨not_exec, started, flush⟩ | settled := h.notDue
    · have frame := hostOp_frame op (withCalls rest c)
      refine .inl ⟨not_exec, by rw [← withCalls, frame.eng started]; exact started, ?_⟩
      rw [← withCalls, held, frame.time, frame.hold started]
      exact flush
    · exact .inr (Settled.hostOp op (settled.congr rfl rfl rfl rfl rfl rfl))
  · rw [h.none_due.1 ax] at due
    cases due
  · rw [h.none_due.2] at due
    cases due

/-- The engine's action neither starts nor stops an engine. -/
theorem engineAct_uninit_iff (hw : engineAct c = .next w) : w.eng.fsm = .uninit ↔ c.eng.fsm = .uninit := by
  obtain ⟨-, rfl⟩ | ⟨he, i, rest, v, -, -, rfl⟩ := engineAct_cases hw
  · constructor
    · intro hu
      by_contra started
      exact engNext_ne_uninit started hu
    · intro hu
      rw [linePhase_of_not_started (.inl hu)]
      exact hu
  · exact iff_of_false (engNext_ne_uninit (startReply_ne_uninit _ _)) (by simp [he])

/-- In `Uninit` the engine's action is the line record alone. -/
theorem engineAct_of_uninit (hu : c.eng.fsm = .uninit) (hw : engineAct c = .next w) :
    w = { c with wire := { driveLow := false, level := !c.pins.consoleLow } } := by
  rw [engineAct_of_ne_exec (by simp [hu]), linePhase_of_not_started (.inl hu)] at hw
  cases hw
  rfl

/-- An engine that has not seen a high level does not leave `Uninit`, `Idle` or `Fatal` by itself. -/
theorem engineAct_keeps_fsm (hw : engineAct c = .next w) (lineQ : c.eng.lineQ = false)
    (hf : c.eng.fsm = .uninit ∨ c.eng.fsm = .idle ∨ c.eng.fsm = .fatal) :
    w.eng.fsm = c.eng.fsm ∧ w.eng.dir = c.eng.dir := by
  have not_exec : c.eng.fsm ≠ .exec := by
    obtain h | h | h := hf <;> simp [h]
  rw [engineAct_of_ne_exec not_exec] at hw
  cases hw
  rw [linePhase_eq]
  dsimp only
  rw [engSampleLine_fsm, engSampleLine_dir]
  obtain uninit | idle | fatal := hf
  · rw [engAdvance_of_not_started (.inl uninit)]
    exact ⟨rfl, rfl⟩
  · rw [engAdvance_idle idle]
    obtain ⟨⟨high, -⟩, -⟩ | ⟨-, hr⟩ := rxStart_cases c.time (joyIn c) c.eng
    · rw [lineQ] at high
      cases high
    · rw [hr]
      exact ⟨rfl, rfl⟩
  · rw [engAdvance_of_not_started (.inr fatal)]
    exact ⟨rfl, rfl⟩

/-- What the engine's action leaves of what host operations read. -/
theorem engineAct_agrees (hw : engineAct c = .next w) (hstore : store → c.eng.fsm ≠ .exec)
    (hfsm : fsm → w.eng.fsm = c.eng.fsm) : Agrees store fsm w c := by
  have started := engineAct_uninit_iff hw
  obtain ⟨-, frame⟩ | ⟨he, i, rest, v, -, hv, frame⟩ := engineAct_frame hw
  · generalize w.eng = eng at frame started hfsm
    generalize w.wire = wire at frame
    subst frame
    exact ⟨rfl, rfl, rfl, rfl, rfl, rfl, started, hfsm, fun _ => rfl, fun _ => rfl, fun _ => rfl, fun _ => rfl⟩
  · have command := (exec_frame hv).rest
    have no_store : ¬ store := fun hs => hstore hs he
    refine ⟨engineAct_time hw, ?_, ?_, ?_, ?_, ?_, started, hfsm, fun hs => absurd hs no_store, fun hs => absurd hs no_store,
      fun hs => absurd hs no_store, fun hs => absurd hs no_store⟩
    · exact (congrArg State.pins frame).trans (congrArg State.pins command :)
    · exact (congrArg State.qdInit frame).trans (congrArg State.qdInit command :)
    · exact (congrArg State.axX frame).trans (congrArg State.axX command :)
    · exact (congrArg State.axY frame).trans (congrArg State.axY command :)
    · exact (congrArg State.btn frame).trans (congrArg State.btn command :)

/-- What the engine's action leaves of the sampler and the calls. -/
theorem engineAct_sampler (hw : engineAct c = .next w) :
    w.snap = c.snap ∧ w.smpNext = c.smpNext ∧ w.env = c.env := by
  obtain ⟨-, frame⟩ | ⟨-, i, rest, v, -, hv, frame⟩ := engineAct_frame hw
  · exact ⟨(congrArg State.snap frame :), (congrArg State.smpNext frame :), (congrArg State.env frame :)⟩
  · have command := (exec_frame hv).rest
    exact ⟨(congrArg State.snap frame).trans (congrArg State.snap command :),
      (congrArg State.smpNext frame).trans (congrArg State.smpNext command :),
      (congrArg State.env frame).trans (congrArg State.env command :)⟩

theorem Draining.engine (h : Draining s u c) (hw : engineAct c = .next w)
    (hexec : c.eng.fsm = .exec → s.eng.fsm = .exec)
    (hfsm : s.eng.fsm = .uninit ∧ s.eng.lineQ = false → w.eng.fsm = c.eng.fsm) : Draining s u w := by
  have not_exec : s.eng.fsm ≠ .exec → c.eng.fsm ≠ .exec := fun hs hc => hs (hexec hc)
  have kept : Agrees (s.eng.fsm ≠ .exec) (s.eng.fsm = .uninit ∧ s.eng.lineQ = false) w c :=
    engineAct_agrees hw not_exec hfsm
  obtain ⟨snap, smpNext, env⟩ := engineAct_sampler hw
  refine ⟨?_, ?_, ?_, snap.trans h.snap, smpNext.trans h.smpNext⟩
  · rw [performed, env]
    exact (hostOps_agrees _ kept).trans h.agrees
  · by_cases hu : c.eng.fsm = .uninit
    · rw [engineAct_of_uninit hu hw]
      exact ⟨h.unhindered.free, h.unhindered.noFormat⟩
    · exact .of_started (fun hx => hu ((engineAct_uninit_iff hw).mp hx))
  · obtain ⟨hs, started, flush⟩ | settled := h.notDue
    · refine .inl ⟨hs, fun hx => started ((engineAct_uninit_iff hw).mp hx), ?_⟩
      rw [held_congr kept.time (kept.hold hs)]
      exact flush
    · exact .inr (settled.congr kept.qdInit kept.pins kept.axX kept.axY kept.time smpNext)

/-- Before the engine's turn, `ENG` is as the microsecond found it, or `InitEngine` has been made. -/
theorem microBefore_fsm (hu : s.eng.fsm = .uninit) : (microBefore s).eng.lineQ = s.eng.lineQ
    ∧ ((microBefore s).eng.fsm = .uninit ∨ (microBefore s).eng.fsm = .idle ∨ (microBefore s).eng.fsm = .fatal) := by
  obtain same | ⟨-, -, idle | fatal⟩ := microBefore_eng s
  · rw [same]
    exact ⟨rfl, .inl hu⟩
  · rw [idle]
    exact ⟨rfl, .inr (.inl rfl)⟩
  · rw [fatal]
    exact ⟨rfl, .inr (.inr rfl)⟩

/-- Settles O54 (45_sampler R278): every action keeps what the waiting calls will have made, and in the end none waits. -/
theorem stepPerformsTheWaitingCalls : Obligations.StepPerformsTheWaitingCalls := by
  intro s u hr ht hlen free no_format others hu
  have start : Draining s u (openMicro s) := by
    refine ⟨?_, ⟨free, no_format⟩, ?_, rfl, rfl⟩
    · rw [hu]
      exact Agrees.refl _
    · obtain ⟨not_exec, flush⟩ | ⟨phases, early⟩ := others
      · refine .inl ⟨not_exec, fun uninit => ?_, decide_eq_true flush⟩
        exact absurd ((not_busy_iff uninit).mp free) (not_le.mpr flush)
      · exact .inr ⟨fun a hq => (phases a hq).trans (by cases a <;> rfl), early⟩
  obtain ⟨t, next⟩ := noStepStops s hlen ht
  obtain ⟨rst, -⟩ | ⟨-, -, w, hw, rfl⟩ := step_cases next
  · simp [hr] at rst
  have before : Draining s u (microBefore s) := actorsAct_induction Draining.act _ _ start
  have engine : Draining s u w := before.engine hw microBefore_exec_iff.mp fun ⟨uninit, low⟩ => by
    obtain ⟨lineQ, hf⟩ := microBefore_fsm uninit
    exact (engineAct_keeps_fsm hw (lineQ.trans low) hf).1
  have after := actorsAct_induction Draining.act ((currentInputs s).after ++ actorsAll w) w engine
  have none_wait := calls_emptied Draining.act (fun _ h => h.unhindered.free) (currentInputs s).after engine
  have agrees := after.agrees
  rw [performed, none_wait] at agrees
  exact ⟨_, next, none_wait, agrees.qdInit, agrees.axX, agrees.axY, agrees.btn, after.snap, after.smpNext,
    fun hs => ⟨agrees.pak hs, agrees.flash hs, agrees.hold hs, agrees.info hs⟩, fun uninit low => agrees.same ⟨uninit, low⟩⟩

end Sys2Proof.Machine
end

section
/-! PROOFS. The reference start-up of 70_reset R334, from `Uninit` to `Idle`: at once on a formatted flash, after the flush on
a blank one. -/

namespace Sys2Proof.Machine

variable {s t c w : State} {j n : Nat}

/-! ### The start-up in one microsecond -/

/-- The start-up calls made up to some point of `referenceBoot`, with no flush that holds the orchestrator. -/
structure Booting (c : State) : Prop where
  free : c.eng.fsm = .uninit → c.hold.flushEnd ≤ c.time
  claim : c.pins.lineClaimOk = true
  calls : c.env.calls <:+ referenceBoot
  pakWaits : .initPak ∈ c.env.calls →
    Memory.wf Config.flashFill c.flash = true ∧ (flashBlank c.flash = true → flushTimeNext c = 0)
  pakDone : .initPak ∉ c.env.calls →
    c.pak.ready = true ∧ c.pak.dirty = false ∧ ∀ a, a < 32768 → c.flashByte a = c.pakByte a
  decoderDone : .initDecoder ∉ c.env.calls →
    c.qdInit = true ∧ ∀ a, (c.ax a).position = 0 ∧ (c.ax a).lastPhase = phase a c
  engineWaits : .initEngine ∈ c.env.calls → c.eng.fsm = .uninit
  engineDone : .initEngine ∉ c.env.calls → c.eng.fsm = .idle ∧ c.eng.dir = .input

theorem Booting.unhindered (h : Booting c) : orchestratorBusy c = false := by
  by_cases hu : c.eng.fsm = .uninit
  · exact (not_busy_iff hu).mpr (h.free hu)
  · exact orchestratorBusy_of_started hu

/-- The next call of the start-up, with those behind it. -/
theorem next_boot_call {op : HostOp} {rest : List HostOp} (h : op :: rest <:+ referenceBoot) :
    (op = .initPak ∧ rest = [.initDecoder, .initButtons, .initEngine])
    ∨ (op = .initDecoder ∧ rest = [.initButtons, .initEngine]) ∨ (op = .initButtons ∧ rest = [.initEngine])
    ∨ (op = .initEngine ∧ rest = []) := by
  simpa [referenceBoot, List.suffix_cons_iff] using h

/-- `Booting` depends on the store, `ENG.fsm`, `ENG.dir` and the calls; on the decoder once `InitDecoder` has been made. -/
theorem Booting.congr (h : Booting c) (time : w.time = c.time) (fsm : w.eng.fsm = c.eng.fsm) (dir : w.eng.dir = c.eng.dir)
    (hold : w.hold = c.hold) (pins : w.pins = c.pins) (env : w.env = c.env) (flash : w.flash = c.flash) (pak : w.pak = c.pak)
    (qdInit : w.qdInit = c.qdInit) (ax : .initDecoder ∉ c.env.calls → ∀ a, w.ax a = c.ax a) : Booting w where
  free := by
    rw [fsm, hold, time]
    exact h.free
  claim := by rw [pins, h.claim]
  calls := by
    rw [env]
    exact h.calls
  pakWaits := by
    rw [env, flash, flushTimeNext, hold]
    exact h.pakWaits
  pakDone := by
    simp only [env, pak, State.flashByte, State.pakByte, flash]
    exact h.pakDone
  decoderDone := by
    intro made
    rw [env] at made
    obtain ⟨qd, axes⟩ := h.decoderDone made
    refine ⟨qdInit.trans qd, fun a => ?_⟩
    rw [ax made a, phase_congr a pins]
    exact axes a
  engineWaits := by
    rw [env, fsm]
    exact h.engineWaits
  engineDone := by
    rw [env, fsm, dir]
    exact h.engineDone

theorem Booting.initPak (h : Booting c) (hcalls : c.env.calls = [.initPak, .initDecoder, .initButtons, .initEngine]) :
    Booting (Machine.initPak (withCalls [.initDecoder, .initButtons, .initEngine] c)) := by
  have uninit : c.eng.fsm = .uninit := h.engineWaits (by simp [hcalls])
  obtain ⟨wf, no_flush⟩ := h.pakWaits (by simp [hcalls])
  rw [initPak_of_uninit (s := withCalls [.initDecoder, .initButtons, .initEngine] c) uninit]
  have ready := initPakBody_ready (withCalls [.initDecoder, .initButtons, .initEngine] c)
  have clean := initPakBody_clean (withCalls [.initDecoder, .initButtons, .initEngine] c)
  have mirror := fun a => initPakBody_mirror (s := withCalls [.initDecoder, .initButtons, .initEngine] c) wf (a := a)
  have free : (initPakBody (withCalls [.initDecoder, .initButtons, .initEngine] c)).hold.flushEnd ≤ c.time := by
    obtain ⟨blank, format⟩ | ⟨-, load⟩ :=
      initPakBody_cases (s := withCalls [.initDecoder, .initButtons, .initEngine] c)
    · rw [format]
      exact (congrArg (c.time + ·) (no_flush blank)).le
    · rw [load]
      exact h.free uninit
  have frame := initPakBody_frame (s := withCalls [.initDecoder, .initButtons, .initEngine] c)
  generalize initPakBody (withCalls [.initDecoder, .initButtons, .initEngine] c) = v at frame free ready clean mirror ⊢
  have calls : v.env.calls = [.initDecoder, .initButtons, .initEngine] := (congrArg (fun u => u.env.calls) frame :)
  have eng : v.eng = c.eng := (congrArg State.eng frame :)
  refine ⟨fun _ => ?_, ?_, ?_, ?_, fun _ => ⟨ready, clean, mirror⟩, ?_, fun _ => eng ▸ uninit, ?_⟩
  · rw [show v.time = c.time from (congrArg State.time frame :)]
    exact free
  · rw [show v.pins = c.pins from (congrArg State.pins frame :), h.claim]
  all_goals simp [calls, referenceBoot]

theorem Booting.initDecoder (h : Booting c) (hcalls : c.env.calls = [.initDecoder, .initButtons, .initEngine]) :
    Booting (Machine.initDecoder (withCalls [.initButtons, .initEngine] c)) where
  free := h.free
  claim := h.claim
  calls := show [HostOp.initButtons, .initEngine] <:+ referenceBoot by decide
  pakWaits waits := absurd waits (show HostOp.initPak ∉ [HostOp.initButtons, .initEngine] by decide)
  pakDone _ := h.pakDone (by simp [hcalls])
  decoderDone _ := ⟨rfl, fun a => by cases a <;> exact ⟨rfl, rfl⟩⟩
  engineWaits _ := h.engineWaits (by simp [hcalls])
  engineDone made := absurd (show HostOp.initEngine ∈ [HostOp.initButtons, .initEngine] by decide) made

theorem Booting.initButtons (h : Booting c) (hcalls : c.env.calls = [.initButtons, .initEngine]) :
    Booting (Machine.initButtons (withCalls [.initEngine] c)) where
  free := h.free
  claim := h.claim
  calls := show [HostOp.initEngine] <:+ referenceBoot by decide
  pakWaits waits := absurd waits (show HostOp.initPak ∉ [HostOp.initEngine] by decide)
  pakDone _ := h.pakDone (by simp [hcalls])
  decoderDone _ := h.decoderDone (by simp [hcalls])
  engineWaits _ := h.engineWaits (by simp [hcalls])
  engineDone made := absurd (show HostOp.initEngine ∈ [HostOp.initEngine] by decide) made

theorem Booting.initEngine (h : Booting c) (hcalls : c.env.calls = [.initEngine]) :
    Booting (Machine.initEngine (withCalls [] c)) := by
  have uninit : c.eng.fsm = .uninit := h.engineWaits (by simp [hcalls])
  have started : Machine.initEngine (withCalls [] c) = (withCalls [] c).withEng { c.eng with fsm := .idle, dir := .input } := by
    obtain ⟨other, -⟩ | ⟨-, -, he⟩ | ⟨-, refused, -⟩ := initEngine_cases (withCalls [] c)
    · exact absurd uninit other
    · exact he
    · exact absurd (h.claim.symm.trans refused) (by simp)
  rw [started]
  exact {
    free := nofun
    claim := h.claim
    calls := List.nil_suffix
    pakWaits := nofun
    pakDone := fun _ => h.pakDone (by simp [hcalls])
    decoderDone := fun _ => h.decoderDone (by simp [hcalls])
    engineWaits := nofun
    engineDone := fun _ => ⟨rfl, rfl⟩ }

/-- A handler that runs finds the decoder not yet initialised: after `InitDecoder` no phase has changed. -/
theorem Booting.axisHandler {a : AxisId} (h : Booting c) (due : axisDue a c = true) : Booting (Machine.axisHandler a c) := by
  have waits : HostOp.initDecoder ∈ c.env.calls := by
    by_contra made
    simp only [axisDue, Bool.and_eq_true, bne_iff_ne] at due
    exact due.2 ((h.decoderDone made).2 a).2.symm
  cases a <;> exact h.congr rfl rfl rfl rfl rfl rfl rfl rfl rfl (fun made => absurd waits made)

theorem Booting.act (a : Actor) (c : State) (h : Booting c) : Booting (actorAct a c) := by
  obtain ha | ⟨op, rest, hcalls, -, ha⟩ | ⟨ax, due, ha⟩ | ⟨-, ha⟩ := actorAct_cases a c <;> rw [ha]
  · exact h
  · obtain ⟨rfl, rfl⟩ | ⟨rfl, rfl⟩ | ⟨rfl, rfl⟩ | ⟨rfl, rfl⟩ := next_boot_call (hcalls ▸ h.calls)
    · exact h.initPak hcalls
    · exact h.initDecoder hcalls
    · exact h.initButtons hcalls
    · exact h.initEngine hcalls
  · exact h.axisHandler due
  · exact h.congr rfl rfl rfl rfl rfl rfl rfl rfl rfl (fun _ a => by cases a <;> rfl)

/-- The engine's action leaves the start-up where it is, the line low before. -/
theorem Booting.engine (h : Booting c) (hw : engineAct c = .next w) (lineQ : c.eng.lineQ = false)
    (hf : c.eng.fsm = .uninit ∨ c.eng.fsm = .idle ∨ c.eng.fsm = .fatal) : Booting w := by
  obtain ⟨fsm, dir⟩ := engineAct_keeps_fsm hw lineQ hf
  have not_exec : c.eng.fsm ≠ .exec := by
    obtain hf | hf | hf := hf <;> simp [hf]
  have kept : Agrees True True w c := engineAct_agrees hw (fun _ => not_exec) (fun _ => fsm)
  refine h.congr kept.time fsm dir (kept.hold trivial) kept.pins (engineAct_sampler hw).2.2 (kept.flash trivial)
    (kept.pak trivial) kept.qdInit (fun _ a => ?_)
  cases a
  · exact kept.axX
  · exact kept.axY

/-- What the start-up of R334 has made in the end. -/
structure Booted (t : State) : Prop where
  fsm : t.eng.fsm = .idle
  dir : t.eng.dir = .input
  ready : t.pak.ready = true
  clean : t.pak.dirty = false
  mirror : ∀ a, a < 32768 → t.flashByte a = t.pakByte a
  qdInit : t.qdInit = true
  axes : ∀ a, (t.ax a).position = 0 ∧ (t.ax a).lastPhase = phase a t
  calls : t.env.calls = []

theorem Booting.booted (h : Booting c) (calls : c.env.calls = []) : Booted c := by
  obtain ⟨fsm, dir⟩ := h.engineDone (by simp [calls])
  obtain ⟨ready, clean, mirror⟩ := h.pakDone (by simp [calls])
  obtain ⟨qdInit, axes⟩ := h.decoderDone (by simp [calls])
  exact ⟨fsm, dir, ready, clean, mirror, qdInit, axes, calls⟩

/-- A microsecond makes all that is left of the start-up. -/
theorem step_boots (h : Booting (openMicro s)) (uninit : s.eng.fsm = .uninit) (low : s.eng.lineQ = false)
    (hr : (currentInputs s).rst = false) (ht : s.time + 1 < Config.timeLimit) :
    ∃ t, step s = .next t ∧ t.time = s.time + 1 ∧ Booted t := by
  obtain ⟨lineQ, hf⟩ := microBefore_fsm uninit
  have not_exec : (microBefore s).eng.fsm ≠ .exec := by
    obtain hf | hf | hf := hf <;> simp [hf]
  have hw := engineAct_of_ne_exec not_exec
  have before : Booting (microBefore s) := actorsAct_induction Booting.act _ _ h
  have engine : Booting (linePhase (microBefore s)) := before.engine hw (lineQ.trans low) hf
  have none_wait := calls_emptied Booting.act (fun _ h => h.unhindered) (currentInputs s).after engine
  obtain ⟨fsm, dir, ready, clean, mirror, qdInit, axes, calls⟩ :=
    (actorsAct_induction Booting.act ((currentInputs s).after ++ actorsAll _) _ engine).booted none_wait
  have time : (linePhase (microBefore s)).time = s.time := (engineAct_time hw).trans microBefore_frame.time
  refine ⟨microAfter (currentInputs s) (linePhase (microBefore s)), ?_, ?_, fsm, dir, ready, clean, mirror, qdInit, axes, calls⟩
  · rw [step_micro hr ht, micro, hw, andThen_next]
  · rw [microAfter_time, time]

/-! ### The script of the start-up -/

/-- The first `n` microseconds of the script assert no `rst`, call nothing and grant the line claim. -/
def Granting (n : Nat) (s : State) : Prop :=
  ∀ u ∈ s.env.inputs.take n, u.rst = false ∧ u.calls = [] ∧ u.pins.lineClaimOk = true

/-- What `Granting` says of one microsecond; past the end of the script the levels hold (log 2). -/
theorem Along.granted (h : Along s j c) (hs : Granting n s) (hj : j < n) (claim : c.pins.lineClaimOk = true) :
    (currentInputs c).rst = false ∧ (currentInputs c).calls = [] ∧ (currentInputs c).pins.lineClaimOk = true := by
  by_cases inside : j < s.env.inputs.length
  · rw [h.inputs_eq inside]
    exact hs _ (List.mem_take_iff_getElem.mpr ⟨j, by omega, rfl⟩)
  · rw [currentInputs, h.inputs, List.drop_eq_nil_of_le (not_lt.mp inside)]
    exact ⟨rfl, rfl, claim⟩

/-- All of R334's calls wait, and `InitPak` will start no flush that lasts. -/
theorem booting_start (uninit : s.eng.fsm = .uninit) (free : s.hold.flushEnd ≤ s.time) (calls : s.env.calls = referenceBoot)
    (wf : Memory.wf Config.flashFill s.flash = true) (no_flush : flashBlank s.flash = true → flushTimeNext s = 0)
    (none_called : (currentInputs s).calls = []) (claim : (currentInputs s).pins.lineClaimOk = true) :
    Booting (openMicro s) := by
  have waiting : (openMicro s).env.calls = referenceBoot := by
    rw [openMicro_calls, calls, none_called, List.append_nil]
  refine ⟨fun _ => free, claim, waiting ▸ List.suffix_rfl, fun _ => ⟨wf, no_flush⟩, ?_, ?_, fun _ => uninit, ?_⟩
  all_goals simp [waiting, referenceBoot]

/-! ### The start-up that formats -/

/-- Inside the flush that `InitPak` started at `s`: the pak is loaded, and the calls behind `InitPak` wait. -/
structure Loading (s : State) (j : Nat) (c : State) : Prop where
  along : Along s j c
  uninit : c.eng.fsm = .uninit
  lineQ : c.eng.lineQ = false
  flushEnd : c.hold.flushEnd = s.time + flushTimeNext s
  ready : c.pak.ready = true
  clean : c.pak.dirty = false
  mirror : ∀ a, a < 32768 → c.flashByte a = c.pakByte a
  calls : c.env.calls = [.initDecoder, .initButtons, .initEngine]
  claim : c.pins.lineClaimOk = true

theorem loading_start (formatting : Formatting [] [.initDecoder, .initButtons, .initEngine] s) (lineQ : s.eng.lineQ = false)
    (hr : (currentInputs s).rst = false) (claim : (currentInputs s).pins.lineClaimOk = true)
    (ht : s.time + 1 < Config.timeLimit) : ∃ t, step s = .next t ∧ Loading s 1 t := by
  refine ⟨_, formatting.step hr ht, ?_⟩
  rw [formatted_eq formatting.harmless _ formatting.blank]
  exact ⟨⟨rfl, rfl, List.drop_one.symm⟩, formatting.uninit, lineQ, rfl, rfl, rfl,
    fun _ => pakToFlash_read formattedPak_wf, rfl, claim⟩

theorem Loading.step (h : Loading s j c) (hs : Granting n s) (hj : j < n) (flush : j < flushTimeNext s)
    (ht : s.time + n < Config.timeLimit) : ∃ t, Machine.step c = .next t ∧ Loading s (j + 1) t := by
  obtain ⟨hr, none_called, claim⟩ := h.along.granted hs hj h.claim
  have time := h.along.time
  refine ⟨_, step_of_busy h.uninit (by rw [time, h.flushEnd]; omega) hr (by omega), ?_⟩
  refine ⟨⟨?_, h.along.par, ?_⟩, h.uninit, h.lineQ, h.flushEnd, h.ready, h.clean, h.mirror, ?_, claim⟩
  · show c.time + 1 = s.time + (j + 1)
    rw [time, Nat.add_assoc]
  · show c.env.inputs.tail = s.env.inputs.drop (j + 1)
    rw [h.along.inputs, List.tail_drop]
  · show c.env.calls ++ (currentInputs c).calls = _
    rw [h.calls, none_called, List.append_nil]

/-- At the end of the flush the rest of the start-up is made. -/
theorem Loading.booting (h : Loading s (flushTimeNext s) c) (none_called : (currentInputs c).calls = [])
    (claim : (currentInputs c).pins.lineClaimOk = true) : Booting (openMicro c) := by
  have waiting : (openMicro c).env.calls = [.initDecoder, .initButtons, .initEngine] := by
    rw [openMicro_calls, h.calls, none_called, List.append_nil]
  have ended : c.hold.flushEnd ≤ c.time := by rw [h.flushEnd, h.along.time]
  refine ⟨fun _ => ended, claim, ?_, ?_, fun _ => ⟨h.ready, h.clean, h.mirror⟩, ?_, fun _ => h.uninit, ?_⟩
  all_goals simp [waiting, referenceBoot]

/-- The start-up on a formatted flash, or with a flush that takes no time: one microsecond. -/
theorem boots_at_once (hs : Granting 1 s) (uninit : s.eng.fsm = .uninit) (lineQ : s.eng.lineQ = false)
    (free : s.hold.flushEnd ≤ s.time) (calls : s.env.calls = referenceBoot)
    (wf : Memory.wf Config.flashFill s.flash = true) (claim : s.pins.lineClaimOk = true)
    (no_flush : flashBlank s.flash = true → flushTimeNext s = 0) (ht : s.time + 1 < Config.timeLimit) :
    ∃ t, step s = .next t ∧ t.time = s.time + 1 ∧ Booted t := by
  obtain ⟨hr, none_called, claim'⟩ := (Along.refl s).granted hs one_pos claim
  exact step_boots (booting_start uninit free calls wf no_flush none_called claim') uninit lineQ hr ht

/-- The start-up on a blank flash: `InitPak` formats, its flush is waited for, and then the rest is made. -/
theorem boots_after_flush (hs : Granting (flushTimeNext s + 1) s) (uninit : s.eng.fsm = .uninit)
    (lineQ : s.eng.lineQ = false) (free : s.hold.flushEnd ≤ s.time) (calls : s.env.calls = referenceBoot)
    (claim : s.pins.lineClaimOk = true) (blank : flashBlank s.flash = true) (lasts : 0 < flushTimeNext s)
    (ht : s.time + (flushTimeNext s + 1) < Config.timeLimit) :
    ∃ t, steps (flushTimeNext s + 1) s = .next t ∧ t.time = s.time + (flushTimeNext s + 1) ∧ Booted t := by
  obtain ⟨hr, none_called, claim'⟩ := (Along.refl s).granted hs (Nat.succ_pos _) claim
  have formatting : Formatting [] [.initDecoder, .initButtons, .initEngine] s :=
    ⟨by rw [calls, none_called]; rfl, nofun, uninit, free, blank, lasts⟩
  obtain ⟨f, first, loading⟩ := loading_start formatting lineQ hr claim' (by omega)
  obtain ⟨c, waited, loaded⟩ := steps_induction (n := flushTimeNext s - 1)
    (fun j c _ hj h => Loading.step h hs (by omega) (by omega) ht) loading
  rw [Nat.add_sub_cancel' lasts] at loaded
  obtain ⟨hr', none_called', claim''⟩ := loaded.along.granted hs (Nat.lt_succ_self _) loaded.claim
  have time := loaded.along.time
  obtain ⟨t, last, now, booted⟩ :=
    step_boots (loaded.booting none_called' claim'') loaded.uninit loaded.lineQ hr' (by omega)
  refine ⟨t, ?_, by rw [now, time, Nat.add_assoc], booted⟩
  calc steps (flushTimeNext s + 1) s
    _ = steps (flushTimeNext s) f := steps_succ _ first
    _ = steps (flushTimeNext s - 1 + 1) f := by rw [Nat.sub_add_cancel lasts]
    _ = steps 1 c := steps_add _ 1 waited
    _ = .next t := steps_succ 0 last

/-- Settles O58 (70_reset R334): the start-up in one microsecond, or around the flush of a blank pak. -/
theorem referenceStartUpReachesIdle : Obligations.ReferenceStartUpReachesIdle := by
  refine ⟨rfl, ?_⟩
  rintro s n rfl uninit lineQ free calls wf claim script ht
  have reaches : ∃ t, steps ((if flashBlank s.flash = true then flushTimeNext s else 0) + 1) s = .next t
      ∧ t.time = s.time + ((if flashBlank s.flash = true then flushTimeNext s else 0) + 1) ∧ Booted t := by
    by_cases lasting : flashBlank s.flash = true ∧ 0 < flushTimeNext s
    · obtain ⟨blank, lasts⟩ := lasting
      rw [if_pos blank] at script ht ⊢
      exact boots_after_flush script uninit lineQ free calls claim blank lasts ht
    · have no_flush : flashBlank s.flash = true → flushTimeNext s = 0 := fun blank =>
        Nat.eq_zero_of_not_pos fun lasts => lasting ⟨blank, lasts⟩
      have at_once : (if flashBlank s.flash = true then flushTimeNext s else 0) = 0 :=
        ite_eq_right_iff.mpr no_flush
      rw [at_once] at script ht ⊢
      obtain ⟨t, next, booted⟩ := boots_at_once script uninit lineQ free calls wf claim no_flush ht
      exact ⟨t, steps_succ 0 next, booted⟩
  obtain ⟨t, run, time, booted⟩ := reaches
  exact ⟨t, run, time, booted.fsm, booted.dir, booted.ready, booted.clean, booted.mirror, booted.qdInit, booted.axes,
    booted.calls⟩

end Sys2Proof.Machine
end
